-- ==== Sys2Proof/Word.lean ====
section
/-!
DEFINITION. The byte and the 16-bit word of HFC (spec/00_scope.md R9, R11, R12): all quantities are
unsigned, bit 7 of a byte is its most significant bit.
-/
namespace Sys2Proof

/-- A byte: `BYTE_W` = 8 bits (R9). -/
abbrev Byte := BitVec 8

/-- A 16-bit word: the operation word (R81) and the two 16-bit header fields (R65). -/
abbrev Word16 := BitVec 16

end Sys2Proof
end

