-- ==== Sys2Proof/Config.lean ====
section
/-!
DEFINITION. The parameters of HFC-1 (spec/00_scope.md R9, spec/92_eei_decisions.md section 1). The
OPEN ones are fields of `Config`; the fixed ones are constants.
-/
namespace Sys2Proof

/-- The OPEN parameters of R9, fixed for one instance of the block. A state carries them (log entry 4),
so a statement about every state is a statement about every value of every parameter. -/
structure Config where
  /-- `PRE_W`, the width of the preamble counter and of `Frame.pre`; range: any width of at least 2. -/
  preW : Nat
  /-- The upper four bits of `SHORT_ADDR_MASK`; its lower four bits are zero by R9, so no value outside
  the parameter's range can be written. -/
  shortAddrMaskHi : BitVec 4
  /-- `FIT_RESERVE_NUL`: true is 1, false is 0. -/
  fitReserveNul : Bool
  /-- `HIP_VERSION`, read by no operation, only by the pseudo-operation HIP_WRAP (R111). -/
  hipVersion : Byte
  deriving DecidableEq, Repr

namespace Config

/-- The defaults R9 states: `PRE_W` 8, `SHORT_ADDR_MASK` 0x80, `FIT_RESERVE_NUL` 1, `HIP_VERSION` 1. -/
def default : Config :=
  { preW := 8, shortAddrMaskHi := 8#4, fitReserveNul := true, hipVersion := 1#8 }

/-- `DATA_BUF_DEPTH` (R9): the parser's data buffer has 255 bytes. -/
abbrev dataBufDepth : Nat := 255

/-- `MIN_PREAMBLE` (R9): the shortest preamble the parser accepts. -/
abbrev minPreamble : Nat := 2

/-- `HIP_HDR_LEN` (R9): a HART-IP header has 8 bytes. -/
abbrev hipHdrLen : Nat := 8

/-- `DEVID_LEN` (R9): a device-identification-number has 3 bytes. -/
abbrev devIdLen : Nat := 3

end Config
end Sys2Proof
end

