-- ==== Sys2Proof/Syntax.lean ====
section
/-!
DEFINITION. The value types on the ports (spec/10_state.md R41 to R44), what the operation port takes
(spec/30_encoding.md R80 to R83) and the instruction set: one constructor of `Instr` for each row of
spec/opcode_table.json.
-/
namespace Sys2Proof

/-- `Address` (R42): a tagged variant of raw wire bytes. In `long`, `b0` is the manufacturer-id byte as
it stands on the wire, `b1` the device-type byte, `b2 b3 b4` the device-identification-number. -/
inductive Address where
  | short (b : Byte)
  | long (b0 b1 b2 b3 b4 : Byte)
  deriving DecidableEq, Repr

/-- `DelimFields` (R43): the four fields of the delimiter byte, with exactly their widths. -/
structure DelimFields where
  addrType : BitVec 1
  phys : BitVec 2
  ftype : BitVec 3
  exp : BitVec 2
  deriving DecidableEq, Repr

/-- `Frame` (R41), the source's Command Frame. The data-length byte is no field: it is recomputed.
`pre` has `PRE_W` bits; the width is a parameter, so it is a number here and `wellFormed` bounds it. -/
structure Frame where
  pre : Nat
  delim : Byte
  addr : Address
  cmd : Byte
  rc : List Byte
  data : List Byte
  cks : Byte
  deriving DecidableEq, Repr

/-- `HipHeader` (R44): the HART-IP header record; type and id are raw bytes. -/
structure HipHeader where
  version : Byte
  msgType : Byte
  msgId : Byte
  status : Byte
  seq : Word16
  byteCount : Word16
  deriving DecidableEq, Repr

/-- The structured operand of an operation (R80, R83), one typed lane for each operand the table of R82
names: an operation reads the lanes of its own operand type and no other (log entry 3). -/
structure OperandLanes where
  /-- ADDR_MK_LONG: manufacturer-id byte, device-type byte, device-identification sequence. -/
  mfr : Byte
  dtype : Byte
  id : List Byte
  /-- ADDR_SER. -/
  addr : Address
  /-- DELIM_ENC. -/
  fields : DelimFields
  /-- FRM_ENCODE, FRM_CKSUM, FRM_VALIDATE. -/
  frame : Frame
  /-- HIP_ENCODE. -/
  header : HipHeader
  /-- HIP_DECODE: exactly eight bytes. -/
  raw8 : Vector Byte 8
  /-- PA_UNPACK's field; the string of PA_PACK and STR_FIT. -/
  seq : List Byte
  /-- The field length L of PA_PACK and STR_FIT. -/
  len : Nat
  deriving DecidableEq, Repr

/-- A datum in one of the fixed-width wire formats of R112, first transmitted byte first. The format is
not recoverable from the bytes (R126 (e)), so the datum is tagged with it. -/
inductive WireDatum where
  | delimiter (d : Byte)
  | shortAddress (b : Byte)
  | longAddress (b0 b1 b2 b3 b4 : Byte)
  | hartIpHeader (x : Vector Byte 8)
  | packedGroup (b0 b1 b2 : Byte)
  deriving DecidableEq, Repr

/-- One thing the host asks of the block: an operation word with its operand (R80, R81), a datum in a
wire format (log entry 12), or a hardware reset between two operations (R270, log entry 8). -/
inductive PortInput where
  | op (word : Word16) (operand : OperandLanes)
  | wire (d : WireDatum)
  | hardwareReset
  deriving DecidableEq, Repr

/-- The instructions: the sixteen operations of R82, then the five wire-format rows of R112. -/
inductive Instr where
  | addrMkShort (p : Byte)
  | addrMkLong (mfr dtype : Byte) (id : List Byte)
  | addrSer (a : Address)
  | delimDec (d : Byte)
  | delimEnc (f : DelimFields)
  | frmEncode (f : Frame)
  | frmCksum (f : Frame)
  | frmValidate (f : Frame) (rx : Byte)
  | prsInit (m : Byte)
  | prsReset
  | prsFeed (b : Byte)
  | hipEncode (h : HipHeader)
  | hipDecode (x : Vector Byte 8)
  | paUnpack (x : List Byte)
  | paPack (txt : List Byte) (len : Nat)
  | strFit (txt : List Byte) (len : Nat)
  | wireDelimiter (d : Byte)
  | wireShortAddress (b : Byte)
  | wireLongAddress (b0 b1 b2 b3 b4 : Byte)
  | wireHartIpHeader (x : Vector Byte 8)
  | wirePackedGroup (b0 b1 b2 : Byte)
  deriving DecidableEq, Repr

end Sys2Proof
end

