-- ==== Sys2Proof/WellFormed.lean ====
section
/-!
DEFINITION. Which instructions are expressible on the port (spec/93_implementation_defined.md U20). All
operand widths but one are in the types; the one left is `Frame.pre`, whose width `PRE_W` is a parameter.
-/
namespace Sys2Proof

/-- `f.pre` fits its `PRE_W` bits (R41). -/
def frameExpressible (c : Config) (f : Frame) : Bool := decide (f.pre < 2 ^ c.preW)

/-- The instruction's operands lie in their types under the parameters `c` (U20). -/
def wellFormed (c : Config) : Instr → Bool
  | .frmEncode f => frameExpressible c f
  | .frmCksum f => frameExpressible c f
  | .frmValidate f _ => frameExpressible c f
  | .addrMkShort _ => true
  | .addrMkLong _ _ _ => true
  | .addrSer _ => true
  | .delimDec _ => true
  | .delimEnc _ => true
  | .prsInit _ => true
  | .prsReset => true
  | .prsFeed _ => true
  | .hipEncode _ => true
  | .hipDecode _ => true
  | .paUnpack _ => true
  | .paPack _ _ => true
  | .strFit _ _ => true
  | .wireDelimiter _ => true
  | .wireShortAddress _ => true
  | .wireLongAddress _ _ _ _ _ => true
  | .wireHartIpHeader _ => true
  | .wirePackedGroup _ _ _ => true

end Sys2Proof
end

