-- ==== Sys2Proof/Decode.lean ====
section
/-!
DEFINITION. The decoder of what the operation port takes and, after it, the encoder
(spec/30_encoding.md R81, R82, R106, R112). Decoding is total: an operation word whose select code is
none of the sixteen is rejected by name.
-/
namespace Sys2Proof

/-- `op = word[15:8]` (R81). -/
def opByte (w : Word16) : Byte := w.extractLsb' 8 8

/-- `imm = word[7:0]` (R81). -/
def immByte (w : Word16) : Byte := w.extractLsb' 0 8

/-- The operation word with the given `op` and `imm` (R81). -/
def opWord (op imm : Byte) : Word16 := op ++ imm

/-- What the decoder makes of one port input: an instruction, an illegal select code with its `op` byte
(R106), or the hardware reset. -/
inductive Decoded where
  | instr (i : Instr)
  | illegalOp (op : Byte)
  | reset
  deriving DecidableEq, Repr

/-- The sixteen select codes (R82); `imm` is used where the table says so and ignored elsewhere. -/
def decodeOp (op imm : Byte) (o : OperandLanes) : Decoded :=
  match op.toNat with
  | 0x00 => .instr (.addrMkShort imm)
  | 0x01 => .instr (.addrMkLong o.mfr o.dtype o.id)
  | 0x02 => .instr (.addrSer o.addr)
  | 0x08 => .instr (.delimDec imm)
  | 0x09 => .instr (.delimEnc o.fields)
  | 0x10 => .instr (.frmEncode o.frame)
  | 0x11 => .instr (.frmCksum o.frame)
  | 0x12 => .instr (.frmValidate o.frame imm)
  | 0x20 => .instr (.prsInit imm)
  | 0x21 => .instr .prsReset
  | 0x22 => .instr (.prsFeed imm)
  | 0x30 => .instr (.hipEncode o.header)
  | 0x31 => .instr (.hipDecode o.raw8)
  | 0x40 => .instr (.paUnpack o.seq)
  | 0x41 => .instr (.paPack o.seq o.len)
  | 0x42 => .instr (.strFit o.seq o.len)
  | _ => .illegalOp op

/-- A datum in a wire format is that format's row of the table (R112). -/
def decodeWire : WireDatum → Instr
  | .delimiter d => .wireDelimiter d
  | .shortAddress b => .wireShortAddress b
  | .longAddress b0 b1 b2 b3 b4 => .wireLongAddress b0 b1 b2 b3 b4
  | .hartIpHeader x => .wireHartIpHeader x
  | .packedGroup b0 b1 b2 => .wirePackedGroup b0 b1 b2

/-- The decoder, total on every port input. -/
def decode : PortInput → Decoded
  | .op w o => decodeOp (opByte w) (immByte w) o
  | .wire d => .instr (decodeWire d)
  | .hardwareReset => .reset

/-- The instruction a decoding gives, if it gives one. -/
def decodedInstr : Decoded → Option Instr
  | .instr i => some i
  | .illegalOp _ => none
  | .reset => none

/-- Every operand lane at zero or empty: what an operation without an operand leaves on the lanes. -/
def zeroLanes : OperandLanes :=
  { mfr := 0, dtype := 0, id := [], addr := .short 0,
    fields := { addrType := 0, phys := 0, ftype := 0, exp := 0 },
    frame := { pre := 0, delim := 0, addr := .short 0, cmd := 0, rc := [], data := [], cks := 0 },
    header := { version := 0, msgType := 0, msgId := 0, status := 0, seq := 0, byteCount := 0 },
    raw8 := #v[0, 0, 0, 0, 0, 0, 0, 0], seq := [], len := 0 }

/-- The select codes in the order of the table of R82. -/
def selectCodes : List Byte :=
  [0x00, 0x01, 0x02, 0x08, 0x09, 0x10, 0x11, 0x12, 0x20, 0x21, 0x22, 0x30, 0x31, 0x40, 0x41, 0x42]

/-- The encoder: an operation becomes its word and operand lanes (an ignored `imm` is written as 0, log
entry 13), a wire-format row its tagged datum. -/
def encode : Instr → PortInput
  | .addrMkShort p => .op (opWord 0x00 p) zeroLanes
  | .addrMkLong mfr dtype id => .op (opWord 0x01 0) { zeroLanes with mfr := mfr, dtype := dtype, id := id }
  | .addrSer a => .op (opWord 0x02 0) { zeroLanes with addr := a }
  | .delimDec d => .op (opWord 0x08 d) zeroLanes
  | .delimEnc f => .op (opWord 0x09 0) { zeroLanes with fields := f }
  | .frmEncode f => .op (opWord 0x10 0) { zeroLanes with frame := f }
  | .frmCksum f => .op (opWord 0x11 0) { zeroLanes with frame := f }
  | .frmValidate f rx => .op (opWord 0x12 rx) { zeroLanes with frame := f }
  | .prsInit m => .op (opWord 0x20 m) zeroLanes
  | .prsReset => .op (opWord 0x21 0) zeroLanes
  | .prsFeed b => .op (opWord 0x22 b) zeroLanes
  | .hipEncode h => .op (opWord 0x30 0) { zeroLanes with header := h }
  | .hipDecode x => .op (opWord 0x31 0) { zeroLanes with raw8 := x }
  | .paUnpack x => .op (opWord 0x40 0) { zeroLanes with seq := x }
  | .paPack txt len => .op (opWord 0x41 0) { zeroLanes with seq := txt, len := len }
  | .strFit txt len => .op (opWord 0x42 0) { zeroLanes with seq := txt, len := len }
  | .wireDelimiter d => .wire (.delimiter d)
  | .wireShortAddress b => .wire (.shortAddress b)
  | .wireLongAddress b0 b1 b2 b3 b4 => .wire (.longAddress b0 b1 b2 b3 b4)
  | .wireHartIpHeader x => .wire (.hartIpHeader x)
  | .wirePackedGroup b0 b1 b2 => .wire (.packedGroup b0 b1 b2)

/-- Byte `i` of the number `w`, counted from the least significant end. -/
def numByte (w i : Nat) : Byte := BitVec.ofNat 8 (w / 256 ^ i)

/-- The port input for a row of spec/opcode_table.json whose bits are `w`: 16 bits are an operation word
with its operand lanes at zero; 8, 24, 40 and 64 bits are the wire formats, which the table numbers with
the first transmitted byte leftmost. An 8-bit datum is taken as a delimiter (log entry 14). -/
def tableInput (nbits w : Nat) : Option PortInput :=
  match nbits with
  | 8 => some (.wire (.delimiter (numByte w 0)))
  | 16 => some (.op (BitVec.ofNat 16 w) zeroLanes)
  | 24 => some (.wire (.packedGroup (numByte w 2) (numByte w 1) (numByte w 0)))
  | 40 => some (.wire (.longAddress (numByte w 4) (numByte w 3) (numByte w 2) (numByte w 1) (numByte w 0)))
  | 64 => some (.wire (.hartIpHeader #v[numByte w 7, numByte w 6, numByte w 5, numByte w 4,
      numByte w 3, numByte w 2, numByte w 1, numByte w 0]))
  | _ => none

/-- The instruction the decoder reads from a row of the table whose bits are `w`. -/
def decodeTableWord (nbits w : Nat) : Option Instr :=
  match tableInput nbits w with
  | some p => decodedInstr (decode p)
  | none => none

end Sys2Proof
end

