-- ==== Sys2Proof/Machine/State.lean ====
section
/-!
DEFINITION. The state of HFC (spec/10_state.md R30 to R40), what its ports deliver, and the state after
reset (R50). State is plain data. It holds every register of R30, and beside them what `step` needs
because it takes and gives nothing but a state: the parameters, the operation port and the two output
ports (log entries 1, 2 and 4).
-/
namespace Sys2Proof.Machine

/-- `mode` (R31), the reading mode. Value 3 is never written and is unrepresentable (U26). -/
inductive Mode where
  | uninit
  | parsePreamble
  | noPreamble
  deriving DecidableEq, Repr

/-- `pstate` (R34), the parser's sequencer state, in the source's order. -/
inductive PState where
  | notInCommand
  | preamble
  | startDelimiter
  | address
  | command
  | dataLength
  | data
  | checksum
  deriving DecidableEq, Repr

/-- `f_kind` (R36): the address variant chosen from the delimiter. -/
inductive AddrKind where
  | short
  | long
  deriving DecidableEq, Repr

/-- `f_addr[0..4]` (R36), in wire order. -/
structure AddrRegs where
  a0 : Byte
  a1 : Byte
  a2 : Byte
  a3 : Byte
  a4 : Byte
  deriving DecidableEq, Repr

/-- `f_rc[0..1]` (R38): the response code proper and the device-status byte. -/
structure RcRegs where
  code : Byte
  status : Byte
  deriving DecidableEq, Repr

/-- The data buffer's contents: (index, byte) pairs, indices strictly rising, no byte equal to what an
unlisted index reads as (`bufDefault`). -/
abbrev Memory := List Host.Cell

/-- The block's fault codes (spec/60_exceptions.md R241). A block fault is an outcome on the result
port, after which the block goes on; it is not a `Fault` of the model. -/
inductive FaultCode where
  | invalidArgument
  | illegalOp
  | parserUninit
  | parserFaulted
  | shortResponseLength
  | encodeBadRcLength
  | encodeLengthOverflow
  | headerByteCountTooSmall
  deriving DecidableEq, Repr

/-- What an operation returns (the "result" column of R82; the record for a wire-format row). -/
inductive Result where
  | none
  | address (a : Address)
  | bytes (x : List Byte)
  | byte (b : Byte)
  | fields (f : DelimFields)
  | bit (v : BitVec 1)
  | header (h : HipHeader)
  | headerDecoded (h : HipHeader) (bcOk : BitVec 1) (bodyLen : Nat)
  deriving DecidableEq, Repr

/-- The outcome on the result port (spec/00_scope.md R16): `ok(result)` or `fault(code, info)`. -/
inductive OpOutcome where
  | ok (r : Result)
  | fault (code : FaultCode) (info : Option Nat)
  deriving DecidableEq, Repr

/-- Where the MODEL stops because a register file of the spec has no such index. No state that meets the
invariant of spec/10_state.md R49 raises one (log entry 10). Both are safe: the model stops where the
hardware has no location to write. -/
inductive Fault where
  /-- Raised by PRS_FEED in state Address when `a_idx` is above 4: `f_addr` has five bytes (R36). Safe. -/
  | addressIndexOutOfRange
  /-- Raised by PRS_FEED in state Data when `data_len` is 255 and the byte goes to the buffer: `buf` has
  the indices 0 to 254 (R39, R62). Safe. -/
  | bufferIndexOutOfRange
  deriving DecidableEq, Repr

/-- Why the MODEL gives no next state. -/
inductive Refusal where
  /-- Raised by an arm of `exec` for an instruction without a meaning yet; no arm raises it now. Safe. -/
  | notModelled (mnemonic : String)
  /-- Raised by `step` for an operand outside its type: a frame operand whose preamble length does not
  fit `PRE_W` bits, which U20 calls not expressible and asks a model to refuse. Safe. -/
  | operandNotExpressible
  deriving DecidableEq, Repr

/-- The state. -/
structure State where
  /-- The parameters of R9. -/
  cfg : Config
  /-- R31. -/
  mode : Mode
  /-- R34. -/
  pstate : PState
  /-- R35; a number below `2 ^ PRE_W`. -/
  preCnt : Nat
  /-- R36. -/
  fDelim : Byte
  fKind : AddrKind
  fAddr : AddrRegs
  aIdx : BitVec 3
  /-- R37. -/
  fCmd : Byte
  fLen : Byte
  dIdx : Byte
  /-- R38; `rc_len` takes the values 0, 1 and 2 (U26). -/
  fRc : RcRegs
  rcLen : Fin 3
  /-- R39. -/
  buf : Memory
  dataLen : Byte
  /-- R40. -/
  fault : Bool
  faultCode : BitVec 4
  /-- The result port (R80): the outcome of the last operation. -/
  result : Option OpOutcome
  /-- The event port (R80, R251): the frame of the Complete event of the last operation. -/
  event : Option Frame
  /-- The operation port (R80): what the host has asked for, oldest first. -/
  inputs : List PortInput
  deriving DecidableEq, Repr

/-- The state after hardware reset of a block with the parameters `c` (R50, R270). The byte registers and
the buffer, which R50 leaves unspecified, hold zeros (log entry 6, DESIGN CHOICE). -/
def State.resetWith (c : Config) : State :=
  { cfg := c, mode := .uninit, pstate := .notInCommand, preCnt := 0,
    fDelim := 0, fKind := .short, fAddr := ⟨0, 0, 0, 0, 0⟩, aIdx := 0,
    fCmd := 0, fLen := 0, dIdx := 0, fRc := ⟨0, 0⟩, rcLen := 0, buf := [], dataLen := 0,
    fault := false, faultCode := 0, result := none, event := none, inputs := [] }

/-- The machine right after reset, with the default parameters of R9. -/
def State.reset : State := State.resetWith Config.default

end Sys2Proof.Machine
end

