-- ==== Sys2Proof/Machine/Operands.lean ====
section
/-!
DEFINITION. The operand forms: the bit fields of the delimiter byte, addresses, the checksum, the
layout of a frame, the header's 16-bit fields and the packed-ASCII groups. Each general-knowledge layout
of spec/93_implementation_defined.md part 3 (G1, G2, G5) stands in one definition here.
-/
namespace Sys2Proof.Machine

/-! ### The delimiter byte (spec/30_encoding.md R88, R89) -/

/-- The fields of a delimiter byte: `a ee pp ttt` (R88, G1, log entry 103: UNVERIFIED). -/
def delimFields (d : Byte) : DelimFields :=
  { addrType := d.extractLsb' 7 1, exp := d.extractLsb' 5 2, phys := d.extractLsb' 3 2,
    ftype := d.extractLsb' 0 3 }

/-- The delimiter byte with the given fields, as R125's shifts and ors write it. -/
def delimByte (f : DelimFields) : Byte :=
  (f.addrType.setWidth 8 <<< 7) ||| (f.exp.setWidth 8 <<< 5) ||| (f.phys.setWidth 8 <<< 3) |||
    f.ftype.setWidth 8

/-- Frame types (R89, G2, log entry 104: UNVERIFIED): burst. -/
def ftypeBack : BitVec 3 := 1
/-- Master-to-field-device. -/
def ftypeStx : BitVec 3 := 2
/-- Field-device-to-master. -/
def ftypeAck : BitVec 3 := 6

/-- The response layout is used exactly for frame type ACK (R170, log entry 105). -/
def isResponse (delim : Byte) : Bool := (delimFields delim).ftype == ftypeAck

/-- The address variant a delimiter announces (R88: 0 short, 1 long). -/
def delimKind (delim : Byte) : AddrKind :=
  if (delimFields delim).addrType = 1 then .long else .short

/-! ### Addresses (spec/40_address_delimiter.md R123, spec/30_encoding.md R90, R91) -/

/-- The variant of an address. -/
def addrKind : Address → AddrKind
  | .short _ => .short
  | .long _ _ _ _ _ => .long

/-- The number of address bytes of a variant: 1 or 5. -/
def kindLen : AddrKind → Nat
  | .short => 1
  | .long => 5

/-- `addr_len` (R123). -/
def addrLen : Address → Nat
  | .short _ => 1
  | .long _ _ _ _ _ => 5

/-- `addr_bytes` (R123). -/
def addrBytes : Address → List Byte
  | .short b => [b]
  | .long b0 b1 b2 b3 b4 => [b0, b1, b2, b3, b4]

/-- The polling address of a short-address byte, `b[3:0]` (R90, R120). -/
def pollingAddress (b : Byte) : BitVec 4 := b.extractLsb' 0 4

/-- The byte `SHORT_ADDR_MASK` (R9): its lower four bits are zero. -/
def shortAddrMask (c : Config) : Byte := c.shortAddrMaskHi ++ (0 : BitVec 4)

/-! ### Checksum and frame layout (spec/41_frame_codec.md R140 to R143) -/

/-- `xor8` (spec/00_scope.md R13). -/
def xor8 : List Byte → Byte
  | [] => 0
  | b :: rest => b ^^^ xor8 rest

/-- The data-length of a frame, `len(rc) + len(data)`, a natural number (R149 (b)). -/
def frameDataLen (f : Frame) : Nat := f.rc.length + f.data.length

/-- Well-formed for encoding (R140): a response code of 0 or 2 bytes and a length that fits one byte. -/
def encodable (f : Frame) : Bool :=
  (f.rc.length == 0 || f.rc.length == 2) && decide (frameDataLen f ≤ 255)

/-- The fault of the two tests every operation of the frame codec makes, in the order of R143. -/
def encodeFault (f : Frame) : Option (FaultCode × Nat) :=
  if f.rc.length ≠ 0 ∧ f.rc.length ≠ 2 then some (.encodeBadRcLength, f.rc.length)
  else if frameDataLen f > 255 then some (.encodeLengthOverflow, frameDataLen f)
  else none

/-- `body(f)` (R141): from the delimiter through the last payload byte. -/
def frameBody (f : Frame) : List Byte :=
  [f.delim] ++ addrBytes f.addr ++ [f.cmd, BitVec.ofNat 8 (frameDataLen f)] ++ f.rc ++ f.data

/-- `cks(f)` (R142). -/
def frameCks (f : Frame) : Byte := xor8 (frameBody f)

/-- The wire bytes of a frame (R143): preamble, body, checksum. -/
def frameBytes (f : Frame) : List Byte := List.replicate f.pre 0xFF ++ frameBody f ++ [frameCks f]

/-- The largest value of a `PRE_W`-bit register (R35). -/
def preMax (c : Config) : Nat := 2 ^ c.preW - 1

/-! ### The HART-IP header (spec/00_scope.md R14, spec/43_hartip_header.md R200 to R203) -/

/-- `be16` (R14): the first byte is the more significant. -/
def be16 (hi lo : Byte) : Word16 := hi ++ lo

/-- `hi8` (R14). -/
def hi8 (v : Word16) : Byte := v.extractLsb' 8 8

/-- `lo8` (R14). -/
def lo8 (v : Word16) : Byte := v.extractLsb' 0 8

/-- The eight bytes of a header, first byte first (R98, R201). -/
def headerBytes (h : HipHeader) : List Byte :=
  [h.version, h.msgType, h.msgId, h.status, hi8 h.seq, lo8 h.seq, hi8 h.byteCount, lo8 h.byteCount]

/-- The header in eight bytes (R98, R202). -/
def headerOf (x : Vector Byte 8) : HipHeader :=
  { version := x[0], msgType := x[1], msgId := x[2], status := x[3],
    seq := be16 x[4] x[5], byteCount := be16 x[6] x[7] }

/-- `bc_ok` (R202): the invariant "byte-count at least 8" holds. -/
def headerBcOk (h : HipHeader) : BitVec 1 := if h.byteCount.toNat ≥ Config.hipHdrLen then 1 else 0

/-- `body_len` (R202, R203): never below zero. -/
def headerBodyLen (h : HipHeader) : Nat :=
  if h.byteCount.toNat ≥ Config.hipHdrLen then h.byteCount.toNat - Config.hipHdrLen else 0

/-! ### Packed ASCII (spec/44_packed_ascii.md R215 to R222; bit order G5, log entry 121: UNVERIFIED) -/

/-- `unpack6` (R215): bits 5:0 are the value, bit 6 the complement of bit 5, bit 7 zero. -/
def unpack6 (v : BitVec 6) : Byte := (0 : BitVec 1) ++ (~~~(v.extractLsb' 5 1)) ++ v

/-- `pack6` (R219): bits 5:0 of the character. -/
def pack6 (c : Byte) : BitVec 6 := c.extractLsb' 0 6

/-- The four six-bit values of a packed group (R102, R216): `aaaaaabb bbbbcccc ccdddddd`. -/
def groupValues (b0 b1 b2 : Byte) : BitVec 6 × BitVec 6 × BitVec 6 × BitVec 6 :=
  (b0.extractLsb' 2 6,
   b0.extractLsb' 0 2 ++ b1.extractLsb' 4 4,
   b1.extractLsb' 0 4 ++ b2.extractLsb' 6 2,
   b2.extractLsb' 0 6)

/-- `unpack3` (R216): the four characters of a packed group. -/
def unpack3 (b0 b1 b2 : Byte) : List Byte :=
  let v := groupValues b0 b1 b2
  [unpack6 v.1, unpack6 v.2.1, unpack6 v.2.2.1, unpack6 v.2.2.2]

/-- `pack4` (R220): the packed group of four characters, written with R220's shifts and masks. -/
def pack4 (c0 c1 c2 c3 : Byte) : List Byte :=
  let v0 : Byte := (pack6 c0).setWidth 8
  let v1 : Byte := (pack6 c1).setWidth 8
  let v2 : Byte := (pack6 c2).setWidth 8
  let v3 : Byte := (pack6 c3).setWidth 8
  [(v0 <<< 2) ||| (v1 >>> 4), ((v1 &&& 0x0F) <<< 4) ||| (v2 >>> 2), ((v2 &&& 0x03) <<< 6) ||| v3]

/-- Unpack whole groups of three; one or two trailing bytes are ignored (R217, R218). -/
def unpackGroups : List Byte → List Byte
  | b0 :: b1 :: b2 :: rest => unpack3 b0 b1 b2 ++ unpackGroups rest
  | [] => []
  | [_] => []
  | [_, _] => []

/-- Pack whole groups of four (R222). -/
def packGroups : List Byte → List Byte
  | c0 :: c1 :: c2 :: c3 :: rest => pack4 c0 c1 c2 c3 ++ packGroups rest
  | [] => []
  | [_] => []
  | [_, _] => []
  | [_, _, _] => []

/-- `FIT_RESERVE_NUL` as a number (R9). -/
def fitReserve (c : Config) : Nat := if c.fitReserveNul then 1 else 0

/-- `STR_FIT` (R221): cut to the characters kept, then pad with 0x00 to exactly `len` bytes. -/
def fitString (c : Config) (txt : List Byte) (len : Nat) : List Byte :=
  let cap := if len ≥ fitReserve c then len - fitReserve c else 0
  let k := min txt.length cap
  txt.take k ++ List.replicate (len - k) 0

/-- `PA_PACK` (R222): fit to the characters of the whole groups, pack, zero-fill the rest. -/
def packString (c : Config) (txt : List Byte) (len : Nat) : List Byte :=
  packGroups (fitString c txt (4 * (len / 3))) ++ List.replicate (len % 3) 0

end Sys2Proof.Machine
end

