-- ==== Sys2Proof/Machine/Flags.lean ====
section
/-!
DEFINITION. The block's one flag, the fault latch (spec/10_state.md R40, R47), and the numbers of the
fault and state codes (spec/60_exceptions.md R241, spec/30_encoding.md R104).
-/
namespace Sys2Proof.Machine

/-- The number of a fault code (R241). -/
def faultNumber : FaultCode → BitVec 4
  | .invalidArgument => 1
  | .illegalOp => 2
  | .parserUninit => 3
  | .parserFaulted => 4
  | .shortResponseLength => 5
  | .encodeBadRcLength => 6
  | .encodeLengthOverflow => 7
  | .headerByteCountTooSmall => 8

/-- The column "latches" of R241: only ShortResponseLength sets the latch (R254). -/
def faultLatches : FaultCode → Bool
  | .shortResponseLength => true
  | .invalidArgument => false
  | .illegalOp => false
  | .parserUninit => false
  | .parserFaulted => false
  | .encodeBadRcLength => false
  | .encodeLengthOverflow => false
  | .headerByteCountTooSmall => false

/-- The latch after a fault: set by a latching code, kept by any other (R254). -/
def latchAfter (c : FaultCode) (latch : Bool) : Bool := if faultLatches c then true else latch

/-- The latched code after a fault (R254, R257: no later fault overwrites it, since only a latching code
writes it and no latching code is raised while the latch is set). -/
def codeAfter (c : FaultCode) (code : BitVec 4) : BitVec 4 := if faultLatches c then faultNumber c else code

/-- The number of a reading mode (R31, R104). -/
def modeNumber : Mode → BitVec 2
  | .uninit => 0
  | .parsePreamble => 1
  | .noPreamble => 2

/-- The number of a parser state (R34, R104). -/
def pstateNumber : PState → BitVec 3
  | .notInCommand => 0
  | .preamble => 1
  | .startDelimiter => 2
  | .address => 3
  | .command => 4
  | .dataLength => 5
  | .data => 6
  | .checksum => 7

/-- The reading mode PRS_INIT's immediate selects, if it selects one (R161). -/
def modeOf (m : Byte) : Option Mode :=
  if m = 1 then some .parsePreamble else if m = 2 then some .noPreamble else none

end Sys2Proof.Machine
end

