-- ==== Sys2Proof/Machine/Ops.lean ====
section
/-!
DEFINITION. The named operations over the data buffer, the registers and the ports; taking a fault and
leaving the latch as ONE shared operation each (spec/60_exceptions.md R240, R254, R256); the re-arm
(spec/42_frame_parser.md R163); hardware reset (spec/70_reset_and_hazards.md R270).
-/
namespace Sys2Proof.Machine

/-! ### The data buffer (spec/20_memory.md R62) -/

/-- What a buffer byte that nothing has written reads as (log entry 7, DESIGN CHOICE). -/
def bufDefault : Byte := 0

/-- `buf[i]`. -/
def bufRead (m : Memory) (i : Nat) : Byte :=
  match m with
  | [] => bufDefault
  | (k, v) :: rest => if k = i then v else bufRead rest i

/-- Put one cell in its place among rising indices. -/
def bufInsert (i : Nat) (v : Byte) : Memory → Memory
  | [] => [(i, v)]
  | (k, u) :: rest => if i < k then (i, v) :: (k, u) :: rest else (k, u) :: bufInsert i v rest

/-- The contents without any cell at index `i`. -/
def bufErase (i : Nat) (m : Memory) : Memory := m.filter fun c => !(c.1 == i)

/-- `buf[i] <- v`, in canonical form: writing the value an unlisted index reads as removes the cell. -/
def bufWrite (m : Memory) (i : Nat) (v : Byte) : Memory :=
  if v = bufDefault then bufErase i m else bufInsert i v (bufErase i m)

/-- The prefix `buf[0..n)`. -/
def bufPrefix (m : Memory) (n : Nat) : List Byte := (List.range n).map (bufRead m)

/-- The canonical form: indices strictly rising and below the buffer's depth, no listed default. -/
def Memory.wf (m : Memory) : Bool :=
  decide (m.Pairwise fun a b => a.1 < b.1) &&
    m.all fun c => decide (c.1 < Config.dataBufDepth) && !(c.2 == bufDefault)

/-! ### The ports -/

/-- The operation ends with `ok(r)` and no event (R16). -/
def deliver (r : Result) (s : State) : State := { s with result := some (.ok r), event := none }

/-- The operation ends with `ok` and the event `Complete(f)` (R251). -/
def emitComplete (f : Frame) (s : State) : State := { s with result := some (.ok .none), event := some f }

/-! ### Faults -/

/-- Taking a fault (R240, R254): no result, no event, no write but the latch of a latching code. -/
def takeFault (c : FaultCode) (info : Option Nat) (s : State) : State :=
  { s with fault := latchAfter c s.fault, faultCode := codeAfter c s.faultCode,
           result := some (.fault c info), event := none }

/-- Leaving the latched fault (R256): the part of PRS_INIT that clears the latch. -/
def clearLatch (s : State) : State := { s with fault := false, faultCode := 0 }

/-- An operation word whose select code is none of the sixteen (R106, R248). -/
def execIllegalOp (op : Byte) (s : State) : State := takeFault .illegalOp (some op.toNat) s

/-! ### The parser's registers -/

/-- The parser state `rearm()` leaves in a reading mode (R163). -/
def idleState (m : Mode) : PState := if m = .parsePreamble then .notInCommand else .startDelimiter

/-- `rearm()` (R163). -/
def rearm (s : State) : State :=
  { s with pstate := idleState s.mode, preCnt := 0, aIdx := 0, dIdx := 0, rcLen := 0, dataLen := 0 }

/-- `f_addr[i] <- b`; `f_addr` has the indices 0 to 4. -/
def setAddrByte (r : AddrRegs) (i : BitVec 3) (b : Byte) : Option AddrRegs :=
  match i.toNat with
  | 0 => some { r with a0 := b }
  | 1 => some { r with a1 := b }
  | 2 => some { r with a2 := b }
  | 3 => some { r with a3 := b }
  | 4 => some { r with a4 := b }
  | _ => none

/-- The address the registers hold (R174). -/
def regAddress (s : State) : Address :=
  match s.fKind with
  | .long => .long s.fAddr.a0 s.fAddr.a1 s.fAddr.a2 s.fAddr.a3 s.fAddr.a4
  | .short => .short s.fAddr.a0

/-- `[f_rc[0], ..., f_rc[rc_len - 1]]` (R174). -/
def regRc (s : State) : List Byte := [s.fRc.code, s.fRc.status].take s.rcLen.val

/-- `[buf[0], ..., buf[data_len - 1]]` (R174). -/
def regData (s : State) : List Byte := bufPrefix s.buf s.dataLen.toNat

/-- `comp` (R174): the checksum of the registers. -/
def regCks (s : State) : Byte :=
  xor8 ([s.fDelim] ++ addrBytes (regAddress s) ++ [s.fCmd, s.fLen] ++ regRc s ++ regData s)

/-- The frame the Complete event carries when `b` is received as the checksum (R174 to R176): on a
mismatch only the payload is emptied. -/
def regFrame (s : State) (b : Byte) : Frame :=
  { pre := s.preCnt, delim := s.fDelim, addr := regAddress s, cmd := s.fCmd, rc := regRc s,
    data := if regCks s = b then regData s else [], cks := b }

/-- Whether the byte fed in state Data is a response-code byte (R173). -/
def isRcByte (s : State) : Bool := isResponse s.fDelim && decide (s.dIdx.toNat < 2)

/-- The buffer index the byte fed in state Data is stored at, if it goes to the buffer (R173). -/
def storeIndex (s : State) : Option Nat := if isRcByte s then none else some s.dataLen.toNat

/-- `f_rc[d_idx] <- b ; rc_len <- d_idx + 1` (R173), used for `d_idx` below 2. -/
def storeRcByte (b : Byte) (s : State) : State :=
  if s.dIdx = 0 then { s with fRc := { s.fRc with code := b }, rcLen := 1 }
  else { s with fRc := { s.fRc with status := b }, rcLen := 2 }

/-- The fault of PRS_FEED and PRS_RESET before their effect (R162, R164, R253): the latch, then the mode. -/
def parserGuard (s : State) : Option (FaultCode × Option Nat) :=
  if s.fault then some (.parserFaulted, some s.faultCode.toNat)
  else if s.mode = .uninit then some (.parserUninit, none)
  else none

/-! ### Reset -/

/-- Hardware reset (R270, R274): every register as after reset; the parameters are the block's own and the
host's pending requests are the host's (log entry 8). -/
def hardwareReset (s : State) : State := { State.resetWith s.cfg with inputs := s.inputs }

end Sys2Proof.Machine
end

