-- ==== Sys2Proof/Machine/AddrUnit.lean ====
section
/-!
DEFINITION. The address unit and the delimiter unit: ADDR_MK_SHORT, ADDR_MK_LONG, ADDR_SER, DELIM_DEC,
DELIM_ENC (spec/40_address_delimiter.md). All are pure: they write the ports only.
-/
namespace Sys2Proof.Machine

/-- ADDR_MK_SHORT p (R120). -/
def execAddrMkShort (p : Byte) (s : State) : Host.Outcome State Fault Refusal :=
  if p.toNat > 15 then .next (takeFault .invalidArgument (some p.toNat) s)
  else .next (deliver (.address (.short (shortAddrMask s.cfg ||| p))) s)

/-- ADDR_MK_LONG mfr dtype id (R121): bit 7 of the first byte is set here and nowhere else. -/
def execAddrMkLong (mfr dtype : Byte) (id : List Byte) (s : State) : Host.Outcome State Fault Refusal :=
  match id with
  | [i0, i1, i2] => .next (deliver (.address (.long (mfr ||| 0x80) dtype i0 i1 i2)) s)
  | other => .next (takeFault .invalidArgument (some other.length) s)

/-- ADDR_SER a (R122): the stored bytes unchanged. -/
def execAddrSer (a : Address) (s : State) : Host.Outcome State Fault Refusal :=
  .next (deliver (.bytes (addrBytes a)) s)

/-- DELIM_DEC d (R124). -/
def execDelimDec (d : Byte) (s : State) : Host.Outcome State Fault Refusal :=
  .next (deliver (.fields (delimFields d)) s)

/-- DELIM_ENC f (R125). -/
def execDelimEnc (f : DelimFields) (s : State) : Host.Outcome State Fault Refusal :=
  .next (deliver (.byte (delimByte f)) s)

end Sys2Proof.Machine
end

