-- ==== Sys2Proof/Machine/FrameCodec.lean ====
section
/-!
DEFINITION. The frame codec: FRM_ENCODE, FRM_CKSUM, FRM_VALIDATE (spec/41_frame_codec.md). All are pure;
all make the same two tests first.
-/
namespace Sys2Proof.Machine

/-- An operation of the frame codec: the two tests of R143, then the result. -/
def codecOp (f : Frame) (r : Result) (s : State) : State :=
  match encodeFault f with
  | some (c, n) => takeFault c (some n) s
  | none => deliver r s

/-- FRM_ENCODE f (R143). -/
def execFrmEncode (f : Frame) (s : State) : Host.Outcome State Fault Refusal :=
  .next (codecOp f (.bytes (frameBytes f)) s)

/-- FRM_CKSUM f (R144). -/
def execFrmCksum (f : Frame) (s : State) : Host.Outcome State Fault Refusal :=
  .next (codecOp f (.byte (frameCks f)) s)

/-- FRM_VALIDATE f rx (R145). -/
def execFrmValidate (f : Frame) (rx : Byte) (s : State) : Host.Outcome State Fault Refusal :=
  .next (codecOp f (.bit (if frameCks f = rx then 1 else 0)) s)

end Sys2Proof.Machine
end

