-- ==== Sys2Proof/Machine/HipCodec.lean ====
section
/-!
DEFINITION. The HART-IP header codec: HIP_ENCODE, HIP_DECODE (spec/43_hartip_header.md). Both are pure.
-/
namespace Sys2Proof.Machine

/-- HIP_ENCODE h (R201). -/
def execHipEncode (h : HipHeader) (s : State) : Host.Outcome State Fault Refusal :=
  if h.byteCount.toNat < Config.hipHdrLen then
    .next (takeFault .headerByteCountTooSmall (some h.byteCount.toNat) s)
  else .next (deliver (.bytes (headerBytes h)) s)

/-- HIP_DECODE x (R202): total on any eight bytes. -/
def execHipDecode (x : Vector Byte 8) (s : State) : Host.Outcome State Fault Refusal :=
  .next (deliver (.headerDecoded (headerOf x) (headerBcOk (headerOf x)) (headerBodyLen (headerOf x))) s)

end Sys2Proof.Machine
end

