-- ==== Sys2Proof/Machine/PackedAscii.lean ====
section
/-!
DEFINITION. The packed-ASCII unit: PA_UNPACK, PA_PACK, STR_FIT (spec/44_packed_ascii.md). All are pure.
-/
namespace Sys2Proof.Machine

/-- PA_UNPACK x (R217, R218). -/
def execPaUnpack (x : List Byte) (s : State) : Host.Outcome State Fault Refusal :=
  .next (deliver (.bytes (unpackGroups x)) s)

/-- PA_PACK s L (R222). -/
def execPaPack (txt : List Byte) (len : Nat) (s : State) : Host.Outcome State Fault Refusal :=
  .next (deliver (.bytes (packString s.cfg txt len)) s)

/-- STR_FIT s L (R221). -/
def execStrFit (txt : List Byte) (len : Nat) (s : State) : Host.Outcome State Fault Refusal :=
  .next (deliver (.bytes (fitString s.cfg txt len)) s)

end Sys2Proof.Machine
end

