-- ==== Sys2Proof/Machine/Parser.lean ====
section
/-!
DEFINITION. The frame parser: PRS_INIT, PRS_RESET, PRS_FEED (spec/42_frame_parser.md). One definition for
each parser state's rule; PRS_FEED dispatches to them (R164).
-/
namespace Sys2Proof.Machine

/-- PRS_INIT m (R161): the only operation that leaves the latched fault (R256). -/
def execPrsInit (m : Byte) (s : State) : Host.Outcome State Fault Refusal :=
  match modeOf m with
  | none => .next (takeFault .invalidArgument (some m.toNat) s)
  | some mode => .next (deliver .none (rearm { clearLatch s with mode := mode }))

/-- PRS_RESET (R162). -/
def execPrsReset (s : State) : Host.Outcome State Fault Refusal :=
  match parserGuard s with
  | some (c, info) => .next (takeFault c info s)
  | none => .next (deliver .none (rearm s))

/-- State NotInCommand (R165). -/
def feedNotInCommand (b : Byte) (s : State) : State :=
  if b = 0xFF then { s with pstate := .preamble, preCnt := 1 } else s

/-- State StartDelimiter (R167). -/
def feedStartDelimiter (b : Byte) (s : State) : State :=
  { s with fDelim := b, fKind := delimKind b, aIdx := 0, pstate := .address }

/-- State Preamble (R166): the byte that ends a sufficient run is the delimiter. -/
def feedPreamble (b : Byte) (s : State) : State :=
  if b = 0xFF then { s with preCnt := min (s.preCnt + 1) (preMax s.cfg) }
  else if s.preCnt ≥ Config.minPreamble then feedStartDelimiter b s
  else { s with pstate := .notInCommand, preCnt := 0 }

/-- State Address (R169). -/
def feedAddress (b : Byte) (s : State) : Host.Outcome State Fault Refusal :=
  match setAddrByte s.fAddr s.aIdx b with
  | none => .fault .addressIndexOutOfRange
  | some r =>
    .next (deliver .none { s with
      fAddr := r, aIdx := s.aIdx + 1,
      pstate := if (s.aIdx + 1).toNat = kindLen s.fKind then .command else .address })

/-- State Command (R171). -/
def feedCommand (b : Byte) (s : State) : State := { s with fCmd := b, pstate := .dataLength }

/-- State DataLength (R172). -/
def feedDataLength (b : Byte) (s : State) : State :=
  if isResponse s.fDelim ∧ b = 1 then takeFault .shortResponseLength (some b.toNat) s
  else deliver .none { s with
    fLen := b, dIdx := 0, rcLen := 0, dataLen := 0,
    pstate := if b = 0 then .checksum else .data }

/-- The position in the data phase moves by one byte (R173). -/
def advanceData (s : State) : State :=
  { s with dIdx := s.dIdx + 1, pstate := if s.dIdx + 1 = s.fLen then .checksum else .data }

/-- State Data (R173). -/
def feedData (b : Byte) (s : State) : Host.Outcome State Fault Refusal :=
  match storeIndex s with
  | none => .next (deliver .none (advanceData (storeRcByte b s)))
  | some i =>
    if i < Config.dataBufDepth then
      .next (deliver .none (advanceData { s with buf := bufWrite s.buf i b, dataLen := s.dataLen + 1 }))
    else .fault .bufferIndexOutOfRange

/-- State Checksum (R174): the event and the re-arm are one step. -/
def feedChecksum (b : Byte) (s : State) : State := emitComplete (regFrame s b) (rearm s)

/-- PRS_FEED b (R164). -/
def execPrsFeed (b : Byte) (s : State) : Host.Outcome State Fault Refusal :=
  match parserGuard s with
  | some (c, info) => .next (takeFault c info s)
  | none =>
    match s.pstate with
    | .notInCommand => .next (deliver .none (feedNotInCommand b s))
    | .preamble => .next (deliver .none (feedPreamble b s))
    | .startDelimiter => .next (deliver .none (feedStartDelimiter b s))
    | .address => feedAddress b s
    | .command => .next (deliver .none (feedCommand b s))
    | .dataLength => .next (feedDataLength b s)
    | .data => feedData b s
    | .checksum => .next (feedChecksum b s)

end Sys2Proof.Machine
end

