-- ==== Sys2Proof/Machine/WireFormats.lean ====
section
/-!
DEFINITION. The five wire-format rows of spec/opcode_table.json (spec/30_encoding.md R112). They are
layouts and no operation word selects them; the meaning of a row is the reading its rule gives a datum of
that layout, delivered on the result port (log entry 12, DESIGN CHOICE).
-/
namespace Sys2Proof.Machine

/-- The delimiter byte (R88). -/
def execWireDelimiter (d : Byte) (s : State) : Host.Outcome State Fault Refusal :=
  .next (deliver (.fields (delimFields d)) s)

/-- The short-address byte (R90): held as received. -/
def execWireShortAddress (b : Byte) (s : State) : Host.Outcome State Fault Refusal :=
  .next (deliver (.address (.short b)) s)

/-- The five long-address bytes (R91): held as received, bit 7 of the first included. -/
def execWireLongAddress (b0 b1 b2 b3 b4 : Byte) (s : State) : Host.Outcome State Fault Refusal :=
  .next (deliver (.address (.long b0 b1 b2 b3 b4)) s)

/-- The HART-IP header (R98). -/
def execWireHartIpHeader (x : Vector Byte 8) (s : State) : Host.Outcome State Fault Refusal :=
  .next (deliver (.header (headerOf x)) s)

/-- One packed-ASCII group (R102) as its four characters (R103; R225: six-bit values are on no port). -/
def execWirePackedGroup (b0 b1 b2 : Byte) (s : State) : Host.Outcome State Fault Refusal :=
  .next (deliver (.bytes (unpack3 b0 b1 b2)) s)

end Sys2Proof.Machine
end

