-- ==== Sys2Proof/Machine/Dispatch.lean ====
section
/-!
DEFINITION. One arm for each instruction: the call of its meaning.
-/
namespace Sys2Proof.Machine

def exec (i : Instr) (s : State) : Host.Outcome State Fault Refusal :=
  match i with
  | .addrMkShort p => Sys2Proof.Machine.execAddrMkShort p s
  | .addrMkLong mfr dtype id => Sys2Proof.Machine.execAddrMkLong mfr dtype id s
  | .addrSer a => Sys2Proof.Machine.execAddrSer a s
  | .delimDec d => Sys2Proof.Machine.execDelimDec d s
  | .delimEnc f => Sys2Proof.Machine.execDelimEnc f s
  | .frmEncode f => Sys2Proof.Machine.execFrmEncode f s
  | .frmCksum f => Sys2Proof.Machine.execFrmCksum f s
  | .frmValidate f rx => Sys2Proof.Machine.execFrmValidate f rx s
  | .prsInit m => Sys2Proof.Machine.execPrsInit m s
  | .prsReset => Sys2Proof.Machine.execPrsReset s
  | .prsFeed b => Sys2Proof.Machine.execPrsFeed b s
  | .hipEncode h => Sys2Proof.Machine.execHipEncode h s
  | .hipDecode x => Sys2Proof.Machine.execHipDecode x s
  | .paUnpack x => Sys2Proof.Machine.execPaUnpack x s
  | .paPack txt len => Sys2Proof.Machine.execPaPack txt len s
  | .strFit txt len => Sys2Proof.Machine.execStrFit txt len s
  | .wireDelimiter d => Sys2Proof.Machine.execWireDelimiter d s
  | .wireShortAddress b => Sys2Proof.Machine.execWireShortAddress b s
  | .wireLongAddress b0 b1 b2 b3 b4 => Sys2Proof.Machine.execWireLongAddress b0 b1 b2 b3 b4 s
  | .wireHartIpHeader x => Sys2Proof.Machine.execWireHartIpHeader x s
  | .wirePackedGroup b0 b1 b2 => Sys2Proof.Machine.execWirePackedGroup b0 b1 b2 s

end Sys2Proof.Machine
end

