-- ==== Sys2Proof/Machine/Fetch.lean ====
section
/-!
DEFINITION. Taking the next request from the operation port (spec/30_encoding.md R80,
spec/20_memory.md R73: one at a time, in the order given; log entry 1). The port stands where a program
counter and a fetch would.
-/
namespace Sys2Proof.Machine

/-- What the operation port offers, with the state after it has been taken off the port. -/
inductive Fetched where
  | idle
  | reset (s : State)
  | illegal (op : Byte) (s : State)
  | run (i : Instr) (s : State)
  deriving DecidableEq, Repr

/-- Take the oldest request off the operation port. -/
def fetch (s : State) : Fetched :=
  match s.inputs with
  | [] => .idle
  | p :: rest =>
    match decode p with
    | .instr i => .run i { s with inputs := rest }
    | .illegalOp op => .illegal op { s with inputs := rest }
    | .reset => .reset { s with inputs := rest }

/-- The state with the table's row of `nbits` bits `w` as the next request (Step.lean's `withFetchWord`). -/
def withTableWord (s : State) (nbits w : Nat) : State :=
  match tableInput nbits w with
  | some p => { s with inputs := p :: s.inputs }
  | none => s

end Sys2Proof.Machine
end

