-- ==== Sys2Proof/Machine/Step.lean ====
section
/-!
DEFINITION. One step of the block: one request of the operation port, performed whole
(spec/00_scope.md R3, spec/20_memory.md R69, R73). With nothing on the port the block does nothing
(spec/70_reset_and_hazards.md R270).
-/
namespace Sys2Proof.Machine

/-- One step. -/
def step (s : State) : Host.Outcome State Fault Refusal :=
  match fetch s with
  | .idle => .next s
  | .reset t => .next (hardwareReset t)
  | .illegal op t => .next (execIllegalOp op t)
  | .run i t => if wellFormed t.cfg i then exec i t else .refused .operandNotExpressible

/-- The state in which the next step fetches the row of the table whose `nbits` bits are `w`. -/
def State.withFetchWord (s : State) (nbits w : Nat) : State := withTableWord s nbits w

end Sys2Proof.Machine
end

