-- ==== Sys2Proof/Machine/Pseudo.lean ====
section
/-!
DEFINITION. The pseudo-operations of spec/30_encoding.md R111, each an abbreviation for operations, and
performing a sequence of operations, which stops at the first fault.
-/
namespace Sys2Proof.Machine

/-- `PRS_FEEDS [b0 ... bk]`. -/
def prsFeeds (bytes : List Byte) : List Instr := bytes.map Instr.prsFeed

/-- `PRS_INIT PRE`. -/
def prsInitPre : Instr := .prsInit 1

/-- `PRS_INIT NOPRE`. -/
def prsInitNopre : Instr := .prsInit 2

/-- `HIP_WRAP type id status seq n`, the header for a body of `n` bytes; defined only for `n ≤ 65527`
(spec/90_conflicts.md C13). -/
def hipWrap (c : Config) (msgType msgId status : Byte) (seq : Word16) (n : Nat) : Option Instr :=
  if n ≤ 65527 then
    some (.hipEncode
      { version := c.hipVersion, msgType := msgType, msgId := msgId, status := status,
        seq := seq, byteCount := BitVec.ofNat 16 (8 + n) })
  else none

/-- `FRM_REQ pre addr cmd data`: a request frame, delimiter 0x02 for a short address and 0x82 for a long. -/
def frmReq (pre : Nat) (addr : Address) (cmd : Byte) (data : List Byte) : Instr :=
  .frmEncode
    { pre := pre, delim := if addrKind addr = .long then 0x82 else 0x02, addr := addr, cmd := cmd,
      rc := [], data := data, cks := 0 }

/-- What a sequence of operations delivers: the state it ends in, its events in order, and whether every
operation had the outcome `ok`. -/
structure OpsRun where
  final : State
  events : List Frame
  allOk : Bool
  deriving DecidableEq, Repr

/-- The last operation had the outcome `ok`. -/
def outcomeOk (s : State) : Bool :=
  match s.result with
  | some (.ok _) => true
  | some (.fault _ _) => false
  | none => false

/-- Perform operations in order, stopping at the first that does not end `ok`. -/
def runOps (s : State) : List Instr → Host.Outcome OpsRun Fault Refusal
  | [] => .next { final := s, events := [], allOk := true }
  | i :: rest =>
    match exec i s with
    | .fault r => .fault r
    | .refused r => .refused r
    | .next t =>
      if outcomeOk t then
        match runOps t rest with
        | .fault r => .fault r
        | .refused r => .refused r
        | .next u => .next { u with events := t.event.toList ++ u.events }
      else .next { final := t, events := t.event.toList, allOk := false }

/-- `PRS_FEEDS` performed on a state. -/
def runFeeds (s : State) (bytes : List Byte) : Host.Outcome OpsRun Fault Refusal := runOps s (prsFeeds bytes)

end Sys2Proof.Machine
end

