-- ==== Sys2Proof/Safety.lean ====
section
/-!
DEFINITION. The terms claims are stated in: the invariant of spec/10_state.md R49, the invariant every
step keeps, what "nothing but the ports changed" means, idle and "finished cleanly"
(spec/70_reset_and_hazards.md R275).
-/
namespace Sys2Proof.Machine

/-- R49, clauses (a) to (f), as the spec words them for a state with `fault = 0` and `mode ≠ Uninit`. -/
structure BoundaryInv (s : State) : Prop where
  a : s.mode = .noPreamble → s.pstate ≠ .notInCommand ∧ s.pstate ≠ .preamble ∧ s.preCnt = 0
  b : (s.pstate = .notInCommand → s.preCnt = 0) ∧ (s.pstate = .preamble → 1 ≤ s.preCnt)
  c : s.pstate = .address → s.aIdx.toNat < kindLen s.fKind
  d : s.pstate = .data →
    1 ≤ s.fLen.toNat ∧ s.dIdx.toNat < s.fLen.toNat ∧ s.rcLen.val + s.dataLen.toNat = s.dIdx.toNat
  e : s.pstate = .checksum →
    s.rcLen.val + s.dataLen.toNat = s.fLen.toNat ∧ (s.rcLen.val = 0 ∨ s.rcLen.val = 2)
  f : s.dataLen.toNat ≤ 255 ∧ (isResponse s.fDelim = true → s.dataLen.toNat ≤ 253)

/-- The invariant every step keeps: R49 made inductive, with the canonical form of the buffer, the
latch's relation to its code (R40, R249, R254) and the positions in every parser state. -/
structure ParserInv (s : State) : Prop where
  /-- The parameter's range (R9). -/
  width : 2 ≤ s.cfg.preW
  /-- The buffer's canonical form. -/
  buffer : Memory.wf s.buf = true
  /-- R35: the counter fits its width. -/
  counter : s.preCnt ≤ preMax s.cfg
  /-- R50, R185: before the first PRS_INIT the parser is as reset left it. -/
  uninit : s.mode = .uninit → s.pstate = .notInCommand ∧ s.fault = false
  /-- R40, R241: no latch, no code. -/
  unlatched : s.fault = false → s.faultCode = 0
  /-- R254: the only latched fault is ShortResponseLength, raised in DataLength in the response layout. -/
  latched : s.fault = true →
    s.faultCode = 5 ∧ s.pstate = .dataLength ∧ isResponse s.fDelim = true
  /-- R49 (a). -/
  noPreamble : s.mode = .noPreamble → s.pstate ≠ .notInCommand ∧ s.pstate ≠ .preamble ∧ s.preCnt = 0
  /-- R167, R175: with a preamble, StartDelimiter never waits and a frame has at least two 0xFF. -/
  withPreamble : s.mode = .parsePreamble →
    s.pstate ≠ .startDelimiter ∧ (s.pstate ≠ .notInCommand → s.pstate ≠ .preamble → 2 ≤ s.preCnt)
  /-- R49 (b). -/
  searching : s.pstate = .notInCommand → s.preCnt = 0
  counting : s.pstate = .preamble → 1 ≤ s.preCnt
  /-- R49 (c), with the address position in the other states. -/
  beforeAddress : s.pstate = .notInCommand ∨ s.pstate = .preamble ∨ s.pstate = .startDelimiter → s.aIdx = 0
  inAddress : s.pstate = .address → s.aIdx.toNat < kindLen s.fKind
  afterAddress : s.pstate = .command ∨ s.pstate = .dataLength ∨ s.pstate = .data ∨ s.pstate = .checksum →
    s.aIdx.toNat = kindLen s.fKind
  kind : s.pstate ≠ .notInCommand → s.pstate ≠ .preamble → s.pstate ≠ .startDelimiter →
    s.fKind = delimKind s.fDelim
  /-- Before the data phase its positions are zero. -/
  beforeData : s.pstate ≠ .data → s.pstate ≠ .checksum → s.dIdx = 0 ∧ s.rcLen = 0 ∧ s.dataLen = 0
  /-- R49 (d), with the split of the position between response code and payload (R173). -/
  inData : s.pstate = .data →
    s.dIdx.toNat < s.fLen.toNat ∧
    s.rcLen.val = (if isResponse s.fDelim then min s.dIdx.toNat 2 else 0) ∧
    s.rcLen.val + s.dataLen.toNat = s.dIdx.toNat ∧
    (isResponse s.fDelim = true → s.fLen ≠ 1)
  /-- R49 (e). -/
  inChecksum : s.pstate = .checksum →
    s.dIdx = s.fLen ∧
    s.rcLen.val = (if isResponse s.fDelim ∧ s.fLen ≠ 0 then 2 else 0) ∧
    s.rcLen.val + s.dataLen.toNat = s.fLen.toNat

/-- Every register of R30 but the fault latch, every parameter and every pending request is unchanged;
every byte of the data buffer reads as before. -/
structure SameButLatch (s t : State) : Prop where
  cfg : t.cfg = s.cfg
  mode : t.mode = s.mode
  pstate : t.pstate = s.pstate
  preCnt : t.preCnt = s.preCnt
  fDelim : t.fDelim = s.fDelim
  fKind : t.fKind = s.fKind
  fAddr : t.fAddr = s.fAddr
  aIdx : t.aIdx = s.aIdx
  fCmd : t.fCmd = s.fCmd
  fLen : t.fLen = s.fLen
  dIdx : t.dIdx = s.dIdx
  fRc : t.fRc = s.fRc
  rcLen : t.rcLen = s.rcLen
  buf : t.buf = s.buf
  bufByte : ∀ i, bufRead t.buf i = bufRead s.buf i
  dataLen : t.dataLen = s.dataLen
  inputs : t.inputs = s.inputs

/-- Nothing but the two output ports changed: every register of R30 and every buffer byte is as before. -/
structure SameRegs (s t : State) : Prop where
  rest : SameButLatch s t
  fault : t.fault = s.fault
  faultCode : t.faultCode = s.faultCode

/-- The operation ended `ok(r)` without an event, and nothing but the ports changed: the shape of every
pure operation's success (R70). -/
def PureOk (s t : State) (r : Result) : Prop :=
  t.result = some (.ok r) ∧ t.event = none ∧ SameRegs s t

/-- The operation ended in a fault that latches nothing (R254): nothing but the ports changed. -/
def PlainFault (s t : State) (c : FaultCode) (info : Option Nat) : Prop :=
  t.result = some (.fault c info) ∧ t.event = none ∧ SameRegs s t

/-- The registers a re-arm does not write are unchanged (R163): parameters, byte registers, buffer,
pending requests. -/
structure SameFrameRegs (s t : State) : Prop where
  cfg : t.cfg = s.cfg
  fDelim : t.fDelim = s.fDelim
  fKind : t.fKind = s.fKind
  fAddr : t.fAddr = s.fAddr
  fCmd : t.fCmd = s.fCmd
  fLen : t.fLen = s.fLen
  fRc : t.fRc = s.fRc
  buf : t.buf = s.buf
  bufByte : ∀ i, bufRead t.buf i = bufRead s.buf i
  inputs : t.inputs = s.inputs

/-- The positions are those of an idle parser in the reading mode it has (R163). -/
structure Rearmed (t : State) : Prop where
  pstate : t.pstate = (if t.mode = .parsePreamble then .notInCommand else .startDelimiter)
  preCnt : t.preCnt = 0
  aIdx : t.aIdx = 0
  dIdx : t.dIdx = 0
  rcLen : t.rcLen = 0
  dataLen : t.dataLen = 0

/-- The parsers stand at the same point: mode, parser state, every position and the latch (R31, R34 to R40). -/
structure SamePosition (s t : State) : Prop where
  mode : t.mode = s.mode
  pstate : t.pstate = s.pstate
  preCnt : t.preCnt = s.preCnt
  aIdx : t.aIdx = s.aIdx
  dIdx : t.dIdx = s.dIdx
  rcLen : t.rcLen = s.rcLen
  dataLen : t.dataLen = s.dataLen
  fault : t.fault = s.fault

/-- The parser runs: no latched fault, a reading mode chosen (the premise of R179). -/
def Running (s : State) : Prop := s.fault = false ∧ s.mode ≠ .uninit

/-- The parser is idle (R275): armed in its reading mode, no fault latched. -/
def IdleParser (s : State) : Prop :=
  s.fault = false ∧ s.mode ≠ .uninit ∧ Rearmed s

/-- "Finished cleanly" (R275) of a sequence of operations: every outcome `ok`, and the parser idle. -/
def FinishedCleanly (r : OpsRun) : Prop := r.allOk = true ∧ IdleParser r.final

/-- A frame whose delimiter agrees with its address variant and its response code (R180 (i), (ii)). -/
def SelfConsistent (f : Frame) : Prop :=
  ((delimFields f.delim).addrType = 1 ↔ addrKind f.addr = .long) ∧
  (isResponse f.delim = true → f.rc.length = 2 ∨ (f.rc.length = 0 ∧ f.data.length = 0)) ∧
  (isResponse f.delim = false → f.rc.length = 0)

/-- The operations that read and write no parser state: every row but PRS_INIT, PRS_RESET and PRS_FEED
(R48, R70, R271). -/
def isPure : Instr → Bool
  | .prsInit _ => false
  | .prsReset => false
  | .prsFeed _ => false
  | .addrMkShort _ => true
  | .addrMkLong _ _ _ => true
  | .addrSer _ => true
  | .delimDec _ => true
  | .delimEnc _ => true
  | .frmEncode _ => true
  | .frmCksum _ => true
  | .frmValidate _ _ => true
  | .hipEncode _ => true
  | .hipDecode _ => true
  | .paUnpack _ => true
  | .paPack _ _ => true
  | .strFit _ _ => true
  | .wireDelimiter _ => true
  | .wireShortAddress _ => true
  | .wireLongAddress _ _ _ _ _ => true
  | .wireHartIpHeader _ => true
  | .wirePackedGroup _ _ _ => true

/-- The buffer index an instruction stores a byte at, if it stores one: only PRS_FEED in state Data of a
running parser does (R39, R173). -/
def storedIndex (i : Instr) (s : State) : Option Nat :=
  match i with
  | .prsFeed _ => if parserGuard s = none ∧ s.pstate = .data then storeIndex s else none
  | _ => none

/-- `k` steps of the block, as the host takes them (Host/Core.lean). -/
def runSteps (k : Nat) (s : State) : Host.Outcome State Fault Refusal := Sys2Proof.core.run k s

end Sys2Proof.Machine
end

