-- ==== Sys2Proof/Certificates/Slice0/Obligations.lean ====
section
/-!
DEFINITION. The statements for the provers, each a proposition about the model, with the rule of spec/ it
formalises. A next state is written either as the state the rules give (a record update names every
register it writes and leaves every other one, the buffer included, as it was) or through `PureOk`,
`PlainFault` and `SameRegs` of Safety.lean, which say register by register and buffer byte by buffer byte
what is unchanged.
-/

open Sys2Proof Sys2Proof.Machine

/-! ### Decoding, the operation port, reset -/

/-- The words of spec/95_test_vectors.md 2.7, the eight illegal ones among them, and one word of every
other operation (R81, R82, R106). -/
def Obligations.SampleWordsDecode : Prop :=
  ∀ o : OperandLanes,
    decode (.op 0x0005 o) = .instr (.addrMkShort 5) ∧
    decode (.op 0x0100 o) = .instr (.addrMkLong o.mfr o.dtype o.id) ∧
    decode (.op 0x0200 o) = .instr (.addrSer o.addr) ∧
    decode (.op 0x0886 o) = .instr (.delimDec 0x86) ∧
    decode (.op 0x0900 o) = .instr (.delimEnc o.fields) ∧
    decode (.op 0x1000 o) = .instr (.frmEncode o.frame) ∧
    decode (.op 0x10FF o) = .instr (.frmEncode o.frame) ∧
    decode (.op 0x1100 o) = .instr (.frmCksum o.frame) ∧
    decode (.op 0x12CD o) = .instr (.frmValidate o.frame 0xCD) ∧
    decode (.op 0x2001 o) = .instr (.prsInit 1) ∧
    decode (.op 0x21A7 o) = .instr .prsReset ∧
    decode (.op 0x22FF o) = .instr (.prsFeed 0xFF) ∧
    decode (.op 0x3000 o) = .instr (.hipEncode o.header) ∧
    decode (.op 0x3100 o) = .instr (.hipDecode o.raw8) ∧
    decode (.op 0x4000 o) = .instr (.paUnpack o.seq) ∧
    decode (.op 0x4100 o) = .instr (.paPack o.seq o.len) ∧
    decode (.op 0x4200 o) = .instr (.strFit o.seq o.len) ∧
    decode (.op 0x0300 o) = .illegalOp 0x03 ∧
    decode (.op 0x0A00 o) = .illegalOp 0x0A ∧
    decode (.op 0x1300 o) = .illegalOp 0x13 ∧
    decode (.op 0x2300 o) = .illegalOp 0x23 ∧
    decode (.op 0x3200 o) = .illegalOp 0x32 ∧
    decode (.op 0x4300 o) = .illegalOp 0x43 ∧
    decode (.op 0x5000 o) = .illegalOp 0x50 ∧
    decode (.op 0xFF22 o) = .illegalOp 0xFF

/-- Decoding an encoded instruction gives it back, with every operand at every value (R81 to R83, R112);
the encoder writes the ignored immediate as 0 (log entry 13). -/
def Obligations.DecodeOfEncode : Prop :=
  ∀ i : Instr, decode (encode i) = .instr i

/-- R81, R109: the immediate of an operation that does not use it has no effect, and the word is its two
fields. -/
def Obligations.IgnoredImmediateHasNoEffect : Prop :=
  (∀ op imm : Byte, opByte (opWord op imm) = op ∧ immByte (opWord op imm) = imm) ∧
  ∀ (w w' : Word16) (o : OperandLanes), opByte w = opByte w' →
    opByte w ∉ ([0x00, 0x08, 0x12, 0x20, 0x22] : List Byte) →
    decode (.op w o) = decode (.op w' o)

/-- R106, R248: an `op` outside the table has the outcome `fault(IllegalOp, op)` and changes nothing, the
latch included; there are 240 such values. -/
def Obligations.IllegalOpFaults : Prop :=
  (∀ (s : State) (w : Word16) (o : OperandLanes) (rest : List PortInput),
    s.inputs = .op w o :: rest → opByte w ∉ selectCodes →
    ∃ t, step s = .next t ∧
      PlainFault { s with inputs := rest } t .illegalOp (some (opByte w).toNat)) ∧
  (∀ (w : Word16) (o : OperandLanes), opByte w ∈ selectCodes → ∃ i, decode (.op w o) = .instr i) ∧
  ((List.range 256).filter fun n => !selectCodes.contains (BitVec.ofNat 8 n)).length = 240

/-- When the oldest request on the operation port decodes to a well-formed instruction, the step takes it
off the port and is `exec` of it (R3, R73; log entry 1). -/
def Obligations.StepRunsDecoded : Prop :=
  ∀ (s : State) (p : PortInput) (rest : List PortInput) (i : Instr),
    s.inputs = p :: rest → decode p = .instr i → wellFormed s.cfg i = true →
    step s = exec i { s with inputs := rest }

/-- 93 U20: a frame operand whose preamble length does not fit `PRE_W` bits is not expressible; the step
refuses it by name, and refuses nothing else that decodes, under that name or another (log entry 5). -/
def Obligations.InexpressibleOperandRefused : Prop :=
  ∀ (s : State) (p : PortInput) (rest : List PortInput) (i : Instr) (r : Refusal),
    s.inputs = p :: rest → decode p = .instr i →
    (step s = .refused r ↔ r = .operandNotExpressible ∧
      ∃ f : Frame, 2 ^ s.cfg.preW ≤ f.pre ∧
        (i = .frmEncode f ∨ i = .frmCksum f ∨ ∃ rx, i = .frmValidate f rx))

/-- R270, R274: hardware reset gives the values of R50's first column whatever the state was, without an
event, and two blocks with the same parameters and pending requests are the same after it; with nothing on
its port the block does nothing. The model's choices in it: that the parameters and the pending requests
survive (log entry 8), and that the registers R50 and U11 leave unspecified are alike after it, being zero
(log entry 6). -/
def Obligations.HardwareResetStep : Prop :=
  (∀ (s : State) (rest : List PortInput), s.inputs = .hardwareReset :: rest →
    ∃ t, step s = .next t ∧ t.mode = .uninit ∧ t.pstate = .notInCommand ∧ t.preCnt = 0 ∧
      t.aIdx = 0 ∧ t.dIdx = 0 ∧ t.rcLen = 0 ∧ t.dataLen = 0 ∧ t.fault = false ∧ t.faultCode = 0 ∧
      t.event = none ∧ t.cfg = s.cfg ∧ t.inputs = rest) ∧
  (∀ (s s' : State) (rest : List PortInput), s.cfg = s'.cfg →
    s.inputs = .hardwareReset :: rest → s'.inputs = .hardwareReset :: rest → step s = step s') ∧
  (∀ s : State, s.inputs = [] → step s = .next s)

/-- R50, first column, for every choice of the parameters; the defaults of R9 at `State.reset`. -/
def Obligations.ResetValues : Prop :=
  (∀ c : Config, (State.resetWith c).mode = .uninit ∧ (State.resetWith c).pstate = .notInCommand ∧
    (State.resetWith c).preCnt = 0 ∧ (State.resetWith c).aIdx = 0 ∧ (State.resetWith c).dIdx = 0 ∧
    (State.resetWith c).rcLen = 0 ∧ (State.resetWith c).dataLen = 0 ∧
    (State.resetWith c).fault = false ∧ (State.resetWith c).faultCode = 0) ∧
  State.reset.cfg.preW = 8 ∧ shortAddrMask State.reset.cfg = 0x80 ∧ fitReserve State.reset.cfg = 1 ∧
  State.reset.cfg.hipVersion = 1

/-- The invariant holds at reset, for every parameter width in R9's range. -/
def Obligations.ResetMeetsParserInv : Prop :=
  ParserInv State.reset ∧ ∀ c : Config, 2 ≤ c.preW → ParserInv (State.resetWith c)

/-! ### The invariant -/

/-- Every step keeps the invariant (R49 made inductive, the buffer's canonical form, the latch). -/
def Obligations.StepKeepsParserInv : Prop :=
  ∀ s t : State, ParserInv s → step s = .next t → ParserInv t

/-- R49: at every operation boundary with `fault = 0` and `mode ≠ Uninit`, clauses (a) to (f) hold,
whatever the host asks for, and whatever the parameters. -/
def Obligations.BoundaryInvAlongRuns : Prop :=
  ∀ (c : Config) (asked : List PortInput) (k : Nat) (t : State), 2 ≤ c.preW →
    runSteps k { State.resetWith c with inputs := asked } = .next t → Running t → BoundaryInv t

/-- R16, R291: under the invariant every operation ends, with exactly one outcome on the result port; no
register file is indexed out of range. -/
def Obligations.EveryOperationEnds : Prop :=
  ∀ (s : State) (i : Instr), ParserInv s → ∃ t o, exec i s = .next t ∧ t.result = some o

/-! ### Address and delimiter units -/

/-- R120. -/
def Obligations.AddrMkShortResult : Prop :=
  ∀ (s : State) (p : Byte) (o : OperandLanes),
    decode (.op (opWord 0x00 p) o) = .instr (.addrMkShort p) ∧
    (p.toNat ≤ 15 → ∃ t b, exec (.addrMkShort p) s = .next t ∧ PureOk s t (.address (.short b)) ∧
      b = shortAddrMask s.cfg ||| p ∧ (pollingAddress b).toNat = p.toNat ∧
      (p = 0 → b = shortAddrMask s.cfg) ∧
      (shortAddrMask s.cfg = 0x80 → p = 0 → b = 0x80) ∧
      (shortAddrMask s.cfg = 0x80 → p = 15 → b = 0x8F)) ∧
    (15 < p.toNat → ∃ t, exec (.addrMkShort p) s = .next t ∧
      PlainFault s t .invalidArgument (some p.toNat))

/-- R121. -/
def Obligations.AddrMkLongResult : Prop :=
  ∀ (s : State) (mfr dtype : Byte) (id : List Byte) (o : OperandLanes) (imm : Byte),
    decode (.op (opWord 0x01 imm) o) = .instr (.addrMkLong o.mfr o.dtype o.id) ∧
    (∀ i0 i1 i2 : Byte, id = [i0, i1, i2] → ∃ t b0,
      exec (.addrMkLong mfr dtype id) s = .next t ∧ PureOk s t (.address (.long b0 dtype i0 i1 i2)) ∧
      b0.toNat = (if mfr.toNat < 128 then mfr.toNat + 128 else mfr.toNat)) ∧
    (id.length ≠ 3 → ∃ t, exec (.addrMkLong mfr dtype id) s = .next t ∧
      PlainFault s t .invalidArgument (some id.length))

/-- R122, R123, and the reading of R126 (b): the result has length 1 or 5. -/
def Obligations.AddrSerResult : Prop :=
  ∀ (s : State) (a : Address) (o : OperandLanes) (imm : Byte),
    decode (.op (opWord 0x02 imm) o) = .instr (.addrSer o.addr) ∧
    ∃ t x, exec (.addrSer a) s = .next t ∧ PureOk s t (.bytes x) ∧ x.length = addrLen a ∧
      (∀ b, a = .short b → x = [b]) ∧
      (∀ b0 b1 b2 b3 b4, a = .long b0 b1 b2 b3 b4 → x = [b0, b1, b2, b3, b4])

/-- R124: the four fields of a delimiter byte, read by division. The bit positions are general knowledge
the spec adopts (G1, log entry 103). -/
def Obligations.DelimDecResult : Prop :=
  ∀ (s : State) (d : Byte) (o : OperandLanes),
    decode (.op (opWord 0x08 d) o) = .instr (.delimDec d) ∧
    ∃ t f, exec (.delimDec d) s = .next t ∧ PureOk s t (.fields f) ∧
      f.addrType.toNat = d.toNat / 128 ∧ f.exp.toNat = d.toNat / 32 % 4 ∧
      f.phys.toNat = d.toNat / 8 % 4 ∧ f.ftype.toNat = d.toNat % 8

/-- R125: the delimiter byte of four fields, written by multiplication. -/
def Obligations.DelimEncResult : Prop :=
  ∀ (s : State) (f : DelimFields) (o : OperandLanes) (imm : Byte),
    decode (.op (opWord 0x09 imm) o) = .instr (.delimEnc o.fields) ∧
    ∃ t b, exec (.delimEnc f) s = .next t ∧ PureOk s t (.byte b) ∧
      b.toNat = f.addrType.toNat * 128 + f.exp.toNat * 32 + f.phys.toNat * 8 + f.ftype.toNat

/-- R126 (a): decoding and assembling a delimiter are inverse to each other. -/
def Obligations.DelimiterViewRoundTrip : Prop :=
  (∀ (s t : State) (d : Byte) (f : DelimFields), exec (.delimDec d) s = .next t →
    t.result = some (.ok (.fields f)) → ∃ u, exec (.delimEnc f) t = .next u ∧ PureOk t u (.byte d)) ∧
  (∀ (s t : State) (f : DelimFields) (d : Byte), exec (.delimEnc f) s = .next t →
    t.result = some (.ok (.byte d)) → ∃ u, exec (.delimDec d) t = .next u ∧ PureOk t u (.fields f))

/-! ### Frame codec -/

/-- R143: the two faults in their order, else preamble, body and checksum. -/
def Obligations.FrmEncodeResult : Prop :=
  ∀ (s : State) (f : Frame) (o : OperandLanes) (imm : Byte),
    decode (.op (opWord 0x10 imm) o) = .instr (.frmEncode o.frame) ∧
    (f.rc.length ≠ 0 → f.rc.length ≠ 2 → ∃ t, exec (.frmEncode f) s = .next t ∧
      PlainFault s t .encodeBadRcLength (some f.rc.length)) ∧
    (f.rc.length = 0 ∨ f.rc.length = 2 → 255 < f.rc.length + f.data.length →
      ∃ t, exec (.frmEncode f) s = .next t ∧
        PlainFault s t .encodeLengthOverflow (some (f.rc.length + f.data.length))) ∧
    (f.rc.length = 0 ∨ f.rc.length = 2 → f.rc.length + f.data.length ≤ 255 →
      ∃ t body n, exec (.frmEncode f) s = .next t ∧ n.toNat = f.rc.length + f.data.length ∧
        body = [f.delim] ++ addrBytes f.addr ++ [f.cmd, n] ++ f.rc ++ f.data ∧
        PureOk s t (.bytes (List.replicate f.pre 0xFF ++ body ++ [body.foldl (· ^^^ ·) 0])))

/-- R144: the checksum, independent of `pre` and `cks`. -/
def Obligations.FrmCksumResult : Prop :=
  ∀ (s : State) (f : Frame) (o : OperandLanes) (imm : Byte),
    decode (.op (opWord 0x11 imm) o) = .instr (.frmCksum o.frame) ∧
    (f.rc.length ≠ 0 → f.rc.length ≠ 2 → ∃ t, exec (.frmCksum f) s = .next t ∧
      PlainFault s t .encodeBadRcLength (some f.rc.length)) ∧
    (f.rc.length = 0 ∨ f.rc.length = 2 → 255 < f.rc.length + f.data.length →
      ∃ t, exec (.frmCksum f) s = .next t ∧
        PlainFault s t .encodeLengthOverflow (some (f.rc.length + f.data.length))) ∧
    (f.rc.length = 0 ∨ f.rc.length = 2 → f.rc.length + f.data.length ≤ 255 →
      ∃ t n, exec (.frmCksum f) s = .next t ∧ n.toNat = f.rc.length + f.data.length ∧
        PureOk s t (.byte (([f.delim] ++ addrBytes f.addr ++ [f.cmd, n] ++ f.rc ++ f.data).foldl
          (· ^^^ ·) 0))) ∧
    (∀ (pre : Nat) (cks : Byte), exec (.frmCksum { f with pre := pre, cks := cks }) s = exec (.frmCksum f) s)

/-- R145: 1 exactly when the received byte is the checksum; `f.cks` is not consulted. -/
def Obligations.FrmValidateResult : Prop :=
  ∀ (s : State) (f : Frame) (rx : Byte) (o : OperandLanes),
    decode (.op (opWord 0x12 rx) o) = .instr (.frmValidate o.frame rx) ∧
    (f.rc.length ≠ 0 → f.rc.length ≠ 2 → ∃ t, exec (.frmValidate f rx) s = .next t ∧
      PlainFault s t .encodeBadRcLength (some f.rc.length)) ∧
    (f.rc.length = 0 ∨ f.rc.length = 2 → 255 < f.rc.length + f.data.length →
      ∃ t, exec (.frmValidate f rx) s = .next t ∧
        PlainFault s t .encodeLengthOverflow (some (f.rc.length + f.data.length))) ∧
    (f.rc.length = 0 ∨ f.rc.length = 2 → f.rc.length + f.data.length ≤ 255 →
      ∃ t n, exec (.frmValidate f rx) s = .next t ∧ n.toNat = f.rc.length + f.data.length ∧
        PureOk s t (.bit (if ([f.delim] ++ addrBytes f.addr ++ [f.cmd, n] ++ f.rc ++ f.data).foldl
          (· ^^^ ·) 0 = rx then 1 else 0))) ∧
    (∀ cks : Byte, exec (.frmValidate { f with cks := cks } rx) s = exec (.frmValidate f rx) s)

/-- R146: the checksum round trip on the bytes FRM_ENCODE delivers. -/
def Obligations.ChecksumRoundTrip : Prop :=
  ∀ (s t : State) (f : Frame) (out : List Byte), encodable f = true →
    exec (.frmEncode f) s = .next t → t.result = some (.ok (.bytes out)) →
    xor8 (out.drop f.pre) = 0 ∧
    ∃ k, out.getLast? = some k ∧ xor8 ((out.drop f.pre).dropLast) = k ∧
      ∃ u, exec (.frmValidate f k) t = .next u ∧ PureOk t u (.bit 1)

/-- R147: one flipped bit of one byte of the body, or of the checksum byte, makes the validation fail. -/
def Obligations.SingleBitFlipDetected : Prop :=
  ∀ (s : State) (f : Frame) (k : Nat), encodable f = true → k < 8 →
    (∀ (i : Nat) (b : Byte), (frameBody f)[i]? = some b →
      xor8 ((frameBody f).set i (b ^^^ (1#8 <<< k))) ≠ frameCks f) ∧
    (∀ (i : Nat) (b : Byte), f.data[i]? = some b →
      ∃ t, exec (.frmValidate { f with data := f.data.set i (b ^^^ (1#8 <<< k)) } (frameCks f)) s = .next t ∧
        PureOk s t (.bit 0)) ∧
    (∃ t, exec (.frmValidate f (frameCks f ^^^ (1#8 <<< k))) s = .next t ∧ PureOk s t (.bit 0))

/-- R149 (c), R150: the length of FRM_ENCODE's output, and its bounds. -/
def Obligations.EncodedLength : Prop :=
  ∀ (s t : State) (f : Frame) (out : List Byte), encodable f = true →
    exec (.frmEncode f) s = .next t → t.result = some (.ok (.bytes out)) →
    out.length = f.pre + addrLen f.addr + 4 + f.rc.length + f.data.length ∧
    5 ≤ out.length - f.pre ∧ out.length - f.pre ≤ 264 ∧
    (frameExpressible s.cfg f = true → out.length ≤ (2 ^ s.cfg.preW - 1) + 5 + 4 + 255) ∧
    (frameExpressible s.cfg f = true → s.cfg.preW = 8 → out.length ≤ 519)

/-! ### The parser -/

/-- R161, R163: PRS_INIT selects the mode, clears the latch and re-arms, in every state; any other
immediate faults and changes nothing; no other operation clears the latch. -/
def Obligations.PrsInitResult : Prop :=
  ∀ (s : State) (m : Byte) (o : OperandLanes),
    decode (.op (opWord 0x20 m) o) = .instr (.prsInit m) ∧
    (m = 1 ∨ m = 2 → ∃ t, exec (.prsInit m) s = .next t ∧
      t.mode = (if m = 1 then .parsePreamble else .noPreamble) ∧ t.fault = false ∧ t.faultCode = 0 ∧
      Rearmed t ∧ SameFrameRegs s t ∧ t.result = some (.ok .none) ∧ t.event = none ∧
      exec (.prsInit m) t = .next t) ∧
    (m ≠ 1 → m ≠ 2 → ∃ t, exec (.prsInit m) s = .next t ∧
      PlainFault s t .invalidArgument (some m.toNat)) ∧
    (∀ (i : Instr) (t : State), exec i s = .next t → s.fault = true → t.fault = false →
      i = .prsInit 1 ∨ i = .prsInit 2)

/-- R162, R163: PRS_RESET re-arms in the current mode and keeps mode and latch; ParserFaulted, then
ParserUninit. -/
def Obligations.PrsResetResult : Prop :=
  ∀ (s : State) (o : OperandLanes) (imm : Byte),
    decode (.op (opWord 0x21 imm) o) = .instr .prsReset ∧
    (s.fault = true → ∃ t, exec .prsReset s = .next t ∧
      PlainFault s t .parserFaulted (some s.faultCode.toNat)) ∧
    (s.fault = false → s.mode = .uninit → ∃ t, exec .prsReset s = .next t ∧
      PlainFault s t .parserUninit none) ∧
    (s.fault = false → s.mode ≠ .uninit → ∃ t, exec .prsReset s = .next t ∧
      t.mode = s.mode ∧ t.fault = s.fault ∧ t.faultCode = s.faultCode ∧ Rearmed t ∧
      SameFrameRegs s t ∧ t.result = some (.ok .none) ∧ t.event = none ∧ exec .prsReset t = .next t)

/-- R185, R243, and the two guards of R164: before the first PRS_INIT PRS_FEED and PRS_RESET fault
ParserUninit and change nothing; PRS_FEED tests the latch first. -/
def Obligations.ParserGuards : Prop :=
  ∀ (s : State) (b : Byte) (o : OperandLanes),
    decode (.op (opWord 0x22 b) o) = .instr (.prsFeed b) ∧
    (s.fault = true → ∃ t, exec (.prsFeed b) s = .next t ∧
      PlainFault s t .parserFaulted (some s.faultCode.toNat)) ∧
    (s.fault = false → s.mode = .uninit →
      (∃ t, exec (.prsFeed b) s = .next t ∧ PlainFault s t .parserUninit none) ∧
      (∃ t, exec .prsReset s = .next t ∧ PlainFault s t .parserUninit none)) ∧
    (∀ (i : Instr) (t : State) (info : Option Nat), exec i s = .next t →
      t.result = some (.fault .parserUninit info) → s.mode = .uninit ∧ (i = .prsReset ∨ ∃ c, i = .prsFeed c))

/-- R165: searching for a preamble; bytes other than 0xFF are dropped without trace, any number of them. -/
def Obligations.FeedNotInCommand : Prop :=
  ∀ s : State, Running s → s.pstate = .notInCommand →
    (exec (.prsFeed 0xFF) s = .next
      { s with pstate := .preamble, preCnt := 1, result := some (.ok .none), event := none }) ∧
    (∀ b : Byte, b ≠ 0xFF → ∃ t, exec (.prsFeed b) s = .next t ∧ PureOk s t .none) ∧
    (∀ bs : List Byte, (0xFF : Byte) ∉ bs → ∃ r, runFeeds s bs = .next r ∧ r.events = [] ∧
      r.allOk = true ∧ SameRegs s r.final) ∧
    (ParserInv s → s.mode = .parsePreamble)

/-- R166: counting a run of 0xFF; the byte that ends a run of at least 2 is the delimiter, handled in the
same operation; a shorter run is dropped with it. -/
def Obligations.FeedPreamble : Prop :=
  ∀ s : State, Running s → s.pstate = .preamble →
    (exec (.prsFeed 0xFF) s = .next
      { s with preCnt := min (s.preCnt + 1) (2 ^ s.cfg.preW - 1), result := some (.ok .none), event := none }) ∧
    (∀ b : Byte, b ≠ 0xFF → 2 ≤ s.preCnt → exec (.prsFeed b) s = .next
      { s with fDelim := b, fKind := if 128 ≤ b.toNat then .long else .short, aIdx := 0,
               pstate := .address, result := some (.ok .none), event := none }) ∧
    (∀ b : Byte, b ≠ 0xFF → s.preCnt < 2 → exec (.prsFeed b) s = .next
      { s with pstate := .notInCommand, preCnt := 0, result := some (.ok .none), event := none })

/-- R167: every byte value is accepted as a delimiter; bit 7 chooses the address variant; the state waits
for a byte in `NoPreamble` mode alone, where `pre_cnt` stays 0. -/
def Obligations.FeedStartDelimiter : Prop :=
  ∀ (s : State) (b : Byte), Running s → s.pstate = .startDelimiter →
    exec (.prsFeed b) s = .next
      { s with fDelim := b, fKind := if 128 ≤ b.toNat then .long else .short, aIdx := 0,
               pstate := .address, result := some (.ok .none), event := none } ∧
    (ParserInv s → s.mode = .noPreamble ∧ s.preCnt = 0)

/-- R169: the byte is the next address byte, stored as received; the last one ends the address. The index
is in range in every state that meets the invariant. -/
def Obligations.FeedAddress : Prop :=
  ∀ (s : State) (b : Byte), Running s → s.pstate = .address → s.aIdx.toNat < 5 →
    ∃ t, exec (.prsFeed b) s = .next t ∧ t.aIdx.toNat = s.aIdx.toNat + 1 ∧
      addrBytes (.long t.fAddr.a0 t.fAddr.a1 t.fAddr.a2 t.fAddr.a3 t.fAddr.a4) =
        (addrBytes (.long s.fAddr.a0 s.fAddr.a1 s.fAddr.a2 s.fAddr.a3 s.fAddr.a4)).set s.aIdx.toNat b ∧
      t.pstate = (if s.aIdx.toNat + 1 = (if s.fKind = .long then 5 else 1) then .command else .address) ∧
      t = { s with fAddr := t.fAddr, aIdx := t.aIdx, pstate := t.pstate,
                   result := some (.ok .none), event := none } ∧
      (ParserInv s → s.aIdx.toNat < (if s.fKind = .long then 5 else 1))

/-- R171. -/
def Obligations.FeedCommand : Prop :=
  ∀ (s : State) (b : Byte), Running s → s.pstate = .command →
    exec (.prsFeed b) s = .next
      { s with fCmd := b, pstate := .dataLength, result := some (.ok .none), event := none }

/-- R172, R244, R170: the data-length byte; 1 in the response layout faults and writes the latch alone. -/
def Obligations.FeedDataLength : Prop :=
  ∀ (s : State) (b : Byte), Running s → s.pstate = .dataLength →
    (s.fDelim.toNat % 8 = 6 → b = 1 → ∃ t, exec (.prsFeed b) s = .next t ∧
      t.fault = true ∧ t.faultCode = 5 ∧ SameButLatch s t ∧
      t.result = some (.fault .shortResponseLength (some 1)) ∧ t.event = none) ∧
    (¬(s.fDelim.toNat % 8 = 6 ∧ b = 1) → exec (.prsFeed b) s = .next
      { s with fLen := b, dIdx := 0, rcLen := 0, dataLen := 0,
               pstate := if b = 0 then .checksum else .data,
               result := some (.ok .none), event := none })

/-- R173, R170: in the response layout the first two bytes of the data phase are the response code, every
other byte goes to the buffer at index `data_len`, which never exceeds 254; every other buffer byte is as
before. -/
def Obligations.FeedData : Prop :=
  ∀ (s : State) (b : Byte), Running s → s.pstate = .data →
    (s.fDelim.toNat % 8 = 6 → s.dIdx = 0 → exec (.prsFeed b) s = .next
      { s with fRc := ⟨b, s.fRc.status⟩, rcLen := 1, dIdx := 1,
               pstate := if 1 = s.fLen then .checksum else .data,
               result := some (.ok .none), event := none }) ∧
    (s.fDelim.toNat % 8 = 6 → s.dIdx = 1 → exec (.prsFeed b) s = .next
      { s with fRc := ⟨s.fRc.code, b⟩, rcLen := 2, dIdx := 2,
               pstate := if 2 = s.fLen then .checksum else .data,
               result := some (.ok .none), event := none }) ∧
    (¬(s.fDelim.toNat % 8 = 6 ∧ s.dIdx.toNat < 2) → s.dataLen.toNat < 255 →
      ∃ t, exec (.prsFeed b) s = .next t ∧ storeIndex s = some s.dataLen.toNat ∧
        bufRead t.buf s.dataLen.toNat = b ∧
        (∀ i, i ≠ s.dataLen.toNat → bufRead t.buf i = bufRead s.buf i) ∧
        t = { s with buf := t.buf, dataLen := s.dataLen + 1, dIdx := s.dIdx + 1,
                     pstate := if s.dIdx + 1 = s.fLen then .checksum else .data,
                     result := some (.ok .none), event := none }) ∧
    (ParserInv s → s.dataLen.toNat ≤ 254)

/-- The index of `f_addr` above 4 and the buffer index 255 do not exist (R36, R39, R62): PRS_FEED stops there
under the model's own names, the model's choice (log entry 10); no state of the invariant meets it. -/
def Obligations.OutOfRangeIndexStops : Prop :=
  ∀ (s : State) (b : Byte), Running s →
    (s.pstate = .address → 5 ≤ s.aIdx.toNat →
      exec (.prsFeed b) s = .fault .addressIndexOutOfRange ∧ ¬ParserInv s) ∧
    (s.pstate = .data → ¬(s.fDelim.toNat % 8 = 6 ∧ s.dIdx.toNat < 2) → s.dataLen.toNat = 255 →
      exec (.prsFeed b) s = .fault .bufferIndexOutOfRange ∧ ¬ParserInv s) ∧
    (∀ (i : Instr) (r : Fault), exec i s = .fault r →
      (∃ c, i = .prsFeed c) ∧ (s.pstate = .address ∨ s.pstate = .data))

/-- R174, R175: the byte is the received checksum; the event carries the frame of the registers, with the
payload emptied on a mismatch (R176), and the parser re-arms in the same step; the preamble length and the
response code the frame has in each mode and layout. -/
def Obligations.FeedChecksum : Prop :=
  ∀ (s : State) (b : Byte), Running s → s.pstate = .checksum →
    ∃ t g, exec (.prsFeed b) s = .next t ∧ t.event = some g ∧ t.result = some (.ok .none) ∧
      g.pre = s.preCnt ∧ g.delim = s.fDelim ∧ g.cmd = s.fCmd ∧ g.cks = b ∧
      g.addr = (if s.fKind = .long then
        .long s.fAddr.a0 s.fAddr.a1 s.fAddr.a2 s.fAddr.a3 s.fAddr.a4 else .short s.fAddr.a0) ∧
      g.rc = [s.fRc.code, s.fRc.status].take s.rcLen.val ∧
      g.data = (if ([s.fDelim] ++ addrBytes g.addr ++ [s.fCmd, s.fLen] ++ g.rc ++
          (List.range s.dataLen.toNat).map (bufRead s.buf)).foldl (· ^^^ ·) 0 = b
        then (List.range s.dataLen.toNat).map (bufRead s.buf) else []) ∧
      t.mode = s.mode ∧ t.fault = s.fault ∧ t.faultCode = s.faultCode ∧ Rearmed t ∧ SameFrameRegs s t ∧
      (ParserInv s →
        (s.mode = .noPreamble → g.pre = 0) ∧
        (s.mode = .parsePreamble → 2 ≤ g.pre ∧ g.pre ≤ 2 ^ s.cfg.preW - 1) ∧
        g.rc.length = (if s.fDelim.toNat % 8 = 6 ∧ 2 ≤ s.fLen.toNat then 2 else 0) ∧
        (b = regCks s → frameCks g = b))

/-- R174, R280: the frame delivered on a match is well-formed for encoding and validates with its own
checksum byte, in every state of the invariant. -/
def Obligations.DeliveredFrameValidates : Prop :=
  ∀ (s t : State) (g : Frame), ParserInv s → Running s → s.pstate = .checksum →
    exec (.prsFeed (regCks s)) s = .next t → t.event = some g →
    encodable g = true ∧ ∃ u, exec (.frmValidate g g.cks) t = .next u ∧ PureOk t u (.bit 1)

/-- R251: PRS_FEED in state Checksum of a running parser always raises the event, nothing else ever does, and
whoever receives it finds the parser idle; an event never comes with a fault. -/
def Obligations.EventExactlyFromChecksum : Prop :=
  (∀ (i : Instr) (s t : State) (g : Frame), exec i s = .next t → t.event = some g →
    (∃ b, i = .prsFeed b) ∧ Running s ∧ s.pstate = .checksum ∧ t.result = some (.ok .none) ∧ IdleParser t) ∧
  (∀ (s : State) (b : Byte), Running s → s.pstate = .checksum →
    ∃ t g, exec (.prsFeed b) s = .next t ∧ t.event = some g)

/-- R240, R254: a faulting operation delivers no event and writes nothing but, for ShortResponseLength, the
latch and its code; `pstate` remains DataLength; an illegal word changes nothing either. -/
def Obligations.FaultWritesOnlyLatch : Prop :=
  (∀ (i : Instr) (s t : State) (c : FaultCode) (info : Option Nat),
    exec i s = .next t → t.result = some (.fault c info) →
    t.event = none ∧ SameButLatch s t ∧
    (c ≠ .shortResponseLength → SameRegs s t) ∧
    (c = .shortResponseLength → t.fault = true ∧ t.faultCode = 5 ∧ t.pstate = .dataLength)) ∧
  (∀ (op : Byte) (s : State), PlainFault s (execIllegalOp op s) .illegalOp (some op.toNat))

/-- R271, R70: the pure operations read and write no parser state: their outcome depends on operand and
parameters alone, whatever the parser's state, and nothing but the ports changes. -/
def Obligations.PureOperationsIgnoreParser : Prop :=
  ∀ (i : Instr) (s s' : State), isPure i = true → s.cfg = s'.cfg →
    ∃ t t', exec i s = .next t ∧ exec i s' = .next t' ∧ t.result = t'.result ∧
      t.event = none ∧ SameRegs s t ∧ SameRegs s' t'

/-- The frame of the data buffer for every instruction: a byte is written only by PRS_FEED in state Data,
and only at the index the rule gives (R39, R173). -/
def Obligations.BufferFrame : Prop :=
  ∀ (i : Instr) (s t : State), exec i s = .next t →
    ∀ a : Nat, storedIndex i s ≠ some a → bufRead t.buf a = bufRead s.buf a

/-- R31, R40: only PRS_INIT writes the mode and leaves the latch; no operation writes the parameters or the
host's pending requests. -/
def Obligations.ModeAndLatchFrame : Prop :=
  ∀ (i : Instr) (s t : State), exec i s = .next t →
    t.cfg = s.cfg ∧ t.inputs = s.inputs ∧
    ((∀ m, i ≠ .prsInit m) → t.mode = s.mode ∧ (s.fault = true → t.fault = true ∧ t.faultCode = s.faultCode))

/-- R184: while the latch is set, every operation but PRS_INIT leaves every register as it is
and delivers no event, the parser operations faulting ParserFaulted; so does any number of steps, whatever
the host asks for, up to the next PRS_INIT or hardware reset. -/
def Obligations.LatchStaysWithoutInit : Prop :=
  (∀ (i : Instr) (s : State), s.fault = true → (∀ m, i ≠ .prsInit m) →
    ∃ t, exec i s = .next t ∧ t.event = none ∧ SameRegs s t ∧
      (isPure i = false → t.result = some (.fault .parserFaulted (some s.faultCode.toNat)))) ∧
  (∀ (k : Nat) (s t : State), s.fault = true →
    (∀ p ∈ s.inputs, p ≠ .hardwareReset ∧ ∀ m, decode p ≠ .instr (.prsInit m)) →
    runSteps k s = .next t → SameRegs { s with inputs := t.inputs } t)

/-- R178: after PRS_RESET or PRS_INIT the parser's behaviour on any bytes is that of a freshly armed
parser, whatever was fed before: the events, the outcomes, and after them the mode, `pstate`, every position
and the latch. PRS_RESET does not write the latched code, so the codes agree where they did before. -/
def Obligations.RearmForgets : Prop :=
  (∀ (s s' u u' : State) (bs : List Byte), Running s → Running s' → s.mode = s'.mode → s.cfg = s'.cfg →
    exec .prsReset s = .next u → exec .prsReset s' = .next u' →
    ∃ r r', runFeeds u bs = .next r ∧ runFeeds u' bs = .next r' ∧ r.events = r'.events ∧
      r.allOk = r'.allOk ∧ r.final.result = r'.final.result ∧ SamePosition r.final r'.final ∧
      (s.faultCode = s'.faultCode → r.final.faultCode = r'.final.faultCode)) ∧
  (∀ (s s' u u' : State) (m : Byte) (bs : List Byte), (m = 1 ∨ m = 2) → s.cfg = s'.cfg →
    exec (.prsInit m) s = .next u → exec (.prsInit m) s' = .next u' →
    ∃ r r', runFeeds u bs = .next r ∧ runFeeds u' bs = .next r' ∧ r.events = r'.events ∧
      r.allOk = r'.allOk ∧ r.final.result = r'.final.result ∧ SamePosition r.final r'.final ∧
      r.final.faultCode = r'.final.faultCode)

/-- R183, R186, in `NoPreamble` mode: from idle, the parser consumes exactly `A + 4 + n` bytes a frame,
delivers nothing before the last and one event on it, whatever the bytes are; a response frame that
announces 1 is left out (R172). -/
def Obligations.FrameBytesConsumed : Prop :=
  ∀ (s : State) (d cmd n ck : Byte) (addr payload : List Byte),
    IdleParser s → s.mode = .noPreamble → addr.length = kindLen (delimKind d) →
    payload.length = n.toNat → ¬(isResponse d = true ∧ n = 1) →
    let body := [d] ++ addr ++ [cmd, n] ++ payload
    (body ++ [ck]).length = addr.length + 4 + n.toNat ∧
    (∃ r, runFeeds s body = .next r ∧ r.events = [] ∧ r.allOk = true) ∧
    ∃ r g, runFeeds s (body ++ [ck]) = .next r ∧ r.events = [g] ∧ FinishedCleanly r ∧
      g.pre = 0 ∧ g.delim = d ∧ addrBytes g.addr = addr ∧ g.cmd = cmd ∧ g.cks = ck ∧
      g.rc = (if isResponse d then payload.take 2 else []) ∧
      g.data = (if xor8 body = ck then payload.drop g.rc.length else [])

/-- R165, R166, R175, R183, in `ParsePreamble` mode: noise without 0xFF, then a run of at least two 0xFF,
then a frame: one event, on the last byte, with the length of the run as far as the counter goes. -/
def Obligations.FrameAfterPreamble : Prop :=
  ∀ (s : State) (noise : List Byte) (k : Nat) (d cmd n ck : Byte) (addr payload : List Byte),
    IdleParser s → s.mode = .parsePreamble → 2 ≤ s.cfg.preW → (0xFF : Byte) ∉ noise → 2 ≤ k → d ≠ 0xFF →
    addr.length = kindLen (delimKind d) → payload.length = n.toNat → ¬(isResponse d = true ∧ n = 1) →
    let body := [d] ++ addr ++ [cmd, n] ++ payload
    (∃ r, runFeeds s (noise ++ List.replicate k 0xFF ++ body) = .next r ∧ r.events = [] ∧ r.allOk = true) ∧
    ∃ r g, runFeeds s (noise ++ List.replicate k 0xFF ++ body ++ [ck]) = .next r ∧ r.events = [g] ∧
      FinishedCleanly r ∧ g.pre = min k (2 ^ s.cfg.preW - 1) ∧ g.delim = d ∧ addrBytes g.addr = addr ∧
      g.cmd = cmd ∧ g.cks = ck ∧ g.rc = (if isResponse d then payload.take 2 else []) ∧
      g.data = (if xor8 body = ck then payload.drop g.rc.length else [])

/-- R180 (a): after PRS_INIT 2, feeding what FRM_ENCODE delivers, from the delimiter on, gives the frame
back on the last byte and leaves the parser idle. -/
def Obligations.ParserInvertsEncodeNoPreamble : Prop :=
  ∀ (s t u : State) (f : Frame) (out : List Byte), encodable f = true → SelfConsistent f →
    exec (.frmEncode f) s = .next t → t.result = some (.ok (.bytes out)) →
    exec (.prsInit 2) t = .next u →
    (∃ r, runFeeds u (out.drop f.pre).dropLast = .next r ∧ r.events = [] ∧ r.allOk = true) ∧
    ∃ r, runFeeds u (out.drop f.pre) = .next r ∧
      r.events = [{ f with pre := 0, cks := frameCks f }] ∧ FinishedCleanly r

/-- R180 (b): after PRS_INIT 1, feeding all that FRM_ENCODE delivers gives the frame back, with its
preamble length. -/
def Obligations.ParserInvertsEncodePreamble : Prop :=
  ∀ (s t u : State) (f : Frame) (out : List Byte), encodable f = true → SelfConsistent f →
    2 ≤ f.pre → f.pre ≤ 2 ^ s.cfg.preW - 1 → f.delim ≠ 0xFF →
    exec (.frmEncode f) s = .next t → t.result = some (.ok (.bytes out)) →
    exec (.prsInit 1) t = .next u →
    (∃ r, runFeeds u out.dropLast = .next r ∧ r.events = [] ∧ r.allOk = true) ∧
    ∃ r, runFeeds u out = .next r ∧
      r.events = [{ f with cks := frameCks f }] ∧ FinishedCleanly r

/-- R166, R282: in `ParsePreamble` mode a frame after a single 0xFF, with no other 0xFF in it, is dropped
byte by byte: no event, no fault, the parser idle. -/
def Obligations.ShortPreambleDropsFrame : Prop :=
  ∀ (s : State) (bs : List Byte), IdleParser s → s.mode = .parsePreamble → bs ≠ [] → (0xFF : Byte) ∉ bs →
    ∃ r, runFeeds s ([0xFF] ++ bs) = .next r ∧ r.events = [] ∧ FinishedCleanly r

/-! ### HART-IP header codec -/

/-- R201: eight bytes, the 16-bit fields big-endian; a byte count below 8 faults. -/
def Obligations.HipEncodeResult : Prop :=
  ∀ (s : State) (h : HipHeader) (o : OperandLanes) (imm : Byte),
    decode (.op (opWord 0x30 imm) o) = .instr (.hipEncode o.header) ∧
    (h.byteCount.toNat < 8 → ∃ t, exec (.hipEncode h) s = .next t ∧
      PlainFault s t .headerByteCountTooSmall (some h.byteCount.toNat)) ∧
    (8 ≤ h.byteCount.toNat → ∃ t q1 q0 c1 c0, exec (.hipEncode h) s = .next t ∧
      PureOk s t (.bytes [h.version, h.msgType, h.msgId, h.status, q1, q0, c1, c0]) ∧
      h.seq.toNat = q1.toNat * 256 + q0.toNat ∧ h.byteCount.toNat = c1.toNat * 256 + c0.toNat)

/-- R202, R203: total on any eight bytes; `bc_ok` reports the invariant, `body_len` never goes below 0. -/
def Obligations.HipDecodeResult : Prop :=
  ∀ (s : State) (x : Vector Byte 8) (o : OperandLanes) (imm : Byte),
    decode (.op (opWord 0x31 imm) o) = .instr (.hipDecode o.raw8) ∧
    ∃ t h ok n, exec (.hipDecode x) s = .next t ∧ PureOk s t (.headerDecoded h ok n) ∧
      h.version = x[0] ∧ h.msgType = x[1] ∧ h.msgId = x[2] ∧ h.status = x[3] ∧
      h.seq.toNat = x[4].toNat * 256 + x[5].toNat ∧
      h.byteCount.toNat = x[6].toNat * 256 + x[7].toNat ∧
      (h.byteCount.toNat < 8 → ok = 0 ∧ n = 0) ∧
      (8 ≤ h.byteCount.toNat → ok = 1 ∧ n = h.byteCount.toNat - 8)

/-- R205: the round trip in both directions, and the fault of the re-encode when the count is below 8. -/
def Obligations.HipRoundTrip : Prop :=
  (∀ (s t : State) (h : HipHeader) (x : Vector Byte 8), 8 ≤ h.byteCount.toNat →
    exec (.hipEncode h) s = .next t → t.result = some (.ok (.bytes x.toList)) →
    ∃ u, exec (.hipDecode x) t = .next u ∧
      PureOk t u (.headerDecoded h 1 (h.byteCount.toNat - 8))) ∧
  (∀ (s t : State) (x : Vector Byte 8) (h : HipHeader) (ok : BitVec 1) (n : Nat),
    exec (.hipDecode x) s = .next t → t.result = some (.ok (.headerDecoded h ok n)) →
    (8 ≤ x[6].toNat * 256 + x[7].toNat → ∃ u, exec (.hipEncode h) t = .next u ∧
      PureOk t u (.bytes x.toList)) ∧
    (x[6].toNat * 256 + x[7].toNat < 8 → ∃ u, exec (.hipEncode h) t = .next u ∧
      PlainFault t u .headerByteCountTooSmall (some h.byteCount.toNat)))

/-! ### Packed ASCII -/

/-- R215, R216, R219, R220: the layout of a packed group and its characters, in numbers; the inverse laws.
The bit order is general knowledge the spec adopts (G5, log entry 121). -/
def Obligations.PackedGroupLayout : Prop :=
  (∀ b0 b1 b2 : Byte, (unpack3 b0 b1 b2).map BitVec.toNat =
    [b0.toNat / 4, b0.toNat % 4 * 16 + b1.toNat / 16, b1.toNat % 16 * 4 + b2.toNat / 64,
      b2.toNat % 64].map fun v => if v < 32 then v + 64 else v) ∧
  (∀ c0 c1 c2 c3 : Byte, (pack4 c0 c1 c2 c3).map BitVec.toNat =
    [c0.toNat % 64 * 4 + c1.toNat % 64 / 16, c1.toNat % 16 * 16 + c2.toNat % 64 / 4,
      c2.toNat % 4 * 64 + c3.toNat % 64]) ∧
  (∀ b0 b1 b2 c0 c1 c2 c3 : Byte, unpack3 b0 b1 b2 = [c0, c1, c2, c3] →
    pack4 c0 c1 c2 c3 = [b0, b1, b2])

/-- R217, R218: four characters for each whole group of three bytes, in order; the rest is ignored. -/
def Obligations.PaUnpackResult : Prop :=
  ∀ (s : State) (x : List Byte) (o : OperandLanes) (imm : Byte),
    decode (.op (opWord 0x40 imm) o) = .instr (.paUnpack o.seq) ∧
    ∃ t y, exec (.paUnpack x) s = .next t ∧ PureOk s t (.bytes y) ∧ y.length = 4 * (x.length / 3) ∧
      (∀ g, g < x.length / 3 → (y.drop (4 * g)).take 4 =
        unpack3 (x.getD (3 * g) 0) (x.getD (3 * g + 1) 0) (x.getD (3 * g + 2) 0)) ∧
      (∀ c ∈ y, 0x20 ≤ c.toNat ∧ c.toNat ≤ 0x5F)

/-- R221: exactly L bytes: the characters kept, then 0x00; with the terminator reserved the last byte of a
field is 0x00. -/
def Obligations.StrFitResult : Prop :=
  ∀ (s : State) (txt : List Byte) (len : Nat) (o : OperandLanes) (imm : Byte),
    decode (.op (opWord 0x42 imm) o) = .instr (.strFit o.seq o.len) ∧
    ∃ t y k, exec (.strFit txt len) s = .next t ∧ PureOk s t (.bytes y) ∧ y.length = len ∧
      k = min txt.length (len - (if s.cfg.fitReserveNul then 1 else 0)) ∧
      y = txt.take k ++ List.replicate (len - k) 0 ∧
      (s.cfg.fitReserveNul = true → 0 < len → y.getLast? = some 0) ∧
      (s.cfg.fitReserveNul = false → txt.length = len → y = txt)

/-- R222: exactly L bytes: the whole groups of the fitted string packed in order, then 0x00. -/
def Obligations.PaPackResult : Prop :=
  ∀ (s : State) (txt : List Byte) (len : Nat) (o : OperandLanes) (imm : Byte),
    decode (.op (opWord 0x41 imm) o) = .instr (.paPack o.seq o.len) ∧
    ∃ t y, exec (.paPack txt len) s = .next t ∧ PureOk s t (.bytes y) ∧ y.length = len ∧
      (∀ g, g < len / 3 → (y.drop (3 * g)).take 3 =
        pack4 ((fitString s.cfg txt (4 * (len / 3))).getD (4 * g) 0)
          ((fitString s.cfg txt (4 * (len / 3))).getD (4 * g + 1) 0)
          ((fitString s.cfg txt (4 * (len / 3))).getD (4 * g + 2) 0)
          ((fitString s.cfg txt (4 * (len / 3))).getD (4 * g + 3) 0)) ∧
      y.drop (3 * (len / 3)) = List.replicate (len % 3) 0

/-- R223, R224: unpacking what PA_PACK delivers gives the fitted string with every character reduced to
HART's set; on characters of the set, the string cut and filled with `@`. -/
def Obligations.PackThenUnpack : Prop :=
  ∀ (s t : State) (txt y : List Byte) (len : Nat),
    exec (.paPack txt len) s = .next t → t.result = some (.ok (.bytes y)) →
    ∃ u z, exec (.paUnpack y) t = .next u ∧ PureOk t u (.bytes z) ∧ z.length = 4 * (len / 3) ∧
      z = (fitString s.cfg txt (4 * (len / 3))).map (fun c => unpack6 (pack6 c)) ∧
      ((∀ c ∈ txt, 0x20 ≤ c.toNat ∧ c.toNat ≤ 0x5F) →
        z = txt.take (4 * (len / 3) - fitReserve s.cfg) ++
          List.replicate (4 * (len / 3) - min txt.length (4 * (len / 3) - fitReserve s.cfg)) 0x40)

/-- R223, last part: packing what PA_UNPACK delivers, for a field of whole groups, is the field again, but
that a reserved terminator zeroes its last six bits. -/
def Obligations.UnpackThenPack : Prop :=
  ∀ (s t : State) (x y : List Byte), x.length % 3 = 0 →
    exec (.paUnpack x) s = .next t → t.result = some (.ok (.bytes y)) →
    (s.cfg.fitReserveNul = false →
      ∃ u, exec (.paPack y x.length) t = .next u ∧ PureOk t u (.bytes x)) ∧
    (s.cfg.fitReserveNul = true → ∀ (x' : List Byte) (k : Byte), x = x' ++ [k] →
      ∃ u, exec (.paPack y x.length) t = .next u ∧ PureOk t u (.bytes (x' ++ [k &&& 0xC0])))

/-! ### The wire-format rows -/

/-- R88, R90, R91, R98, R102, R112: the five wire-format rows of the table, each read by its rule. That a
row is performed like an operation, and its value delivered on the result port, is the model's choice
(log entry 12); no operation word decodes to one. -/
def Obligations.WireFormatReadings : Prop :=
  ∀ (s : State) (b0 b1 b2 b3 b4 : Byte) (x : Vector Byte 8),
    (∃ t f, exec (.wireDelimiter b0) s = .next t ∧ PureOk s t (.fields f) ∧
      b0.toNat = f.addrType.toNat * 128 + f.exp.toNat * 32 + f.phys.toNat * 8 + f.ftype.toNat) ∧
    (∃ t, exec (.wireShortAddress b0) s = .next t ∧ PureOk s t (.address (.short b0))) ∧
    (∃ t, exec (.wireLongAddress b0 b1 b2 b3 b4) s = .next t ∧
      PureOk s t (.address (.long b0 b1 b2 b3 b4))) ∧
    (∃ t h, exec (.wireHartIpHeader x) s = .next t ∧ PureOk s t (.header h) ∧
      h.version = x[0] ∧ h.msgType = x[1] ∧ h.msgId = x[2] ∧ h.status = x[3] ∧
      h.seq.toNat = x[4].toNat * 256 + x[5].toNat ∧
      h.byteCount.toNat = x[6].toNat * 256 + x[7].toNat) ∧
    (∃ t y, exec (.wirePackedGroup b0 b1 b2) s = .next t ∧ PureOk s t (.bytes y) ∧
      y = unpack3 b0 b1 b2) ∧
    (∀ (w : Word16) (o : OperandLanes),
      decode (.op w o) ≠ .instr (.wireDelimiter b0) ∧
      decode (.op w o) ≠ .instr (.wireShortAddress b0) ∧
      decode (.op w o) ≠ .instr (.wireLongAddress b0 b1 b2 b3 b4) ∧
      decode (.op w o) ≠ .instr (.wireHartIpHeader x) ∧
      decode (.op w o) ≠ .instr (.wirePackedGroup b0 b1 b2))

/-- R111: the pseudo-operations are the operations they abbreviate. `PRS_FEEDS` is one PRS_FEED a byte, in
order: performing it ends at once for no byte; stops at the first byte whose outcome is a fault, without
an event for it (R253); else goes on with the rest, events in order; and it ends from every state of the
invariant. `HIP_WRAP` is defined exactly for `n` up to 65527 (spec/90_conflicts.md C13), and then delivers
the header with count 8 + n. -/
def Obligations.PseudoOperations : Prop :=
  prsInitPre = .prsInit 1 ∧ prsInitNopre = .prsInit 2 ∧
  (∀ (bs : List Byte) (k : Nat), (prsFeeds bs)[k]? = bs[k]?.map Instr.prsFeed) ∧
  (∀ (s : State) (bs : List Byte), runFeeds s bs = runOps s (prsFeeds bs)) ∧
  (∀ s : State, runFeeds s [] = .next { final := s, events := [], allOk := true }) ∧
  (∀ (s t : State) (b : Byte) (bs : List Byte) (c : FaultCode) (info : Option Nat),
    exec (.prsFeed b) s = .next t → t.result = some (.fault c info) →
    runFeeds s (b :: bs) = .next { final := t, events := [], allOk := false }) ∧
  (∀ (s t : State) (b : Byte) (bs : List Byte) (v : Result) (r : OpsRun),
    exec (.prsFeed b) s = .next t → t.result = some (.ok v) → runFeeds t bs = .next r →
    runFeeds s (b :: bs) = .next { r with events := t.event.toList ++ r.events }) ∧
  (∀ (s : State) (bs : List Byte), ParserInv s → ∃ r, runFeeds s bs = .next r ∧ ParserInv r.final) ∧
  (∀ (c : Config) (ty id st : Byte) (seq : Word16) (n : Nat), n ≤ 65527 →
    ∃ i, hipWrap c ty id st seq n = some i ∧ ∀ s : State, ∃ t c1 c0 q1 q0, exec i s = .next t ∧
      PureOk s t (.bytes [c.hipVersion, ty, id, st, q1, q0, c1, c0]) ∧
      c1.toNat * 256 + c0.toNat = 8 + n ∧ q1.toNat * 256 + q0.toNat = seq.toNat) ∧
  (∀ (c : Config) (ty id st : Byte) (seq : Word16) (n : Nat), 65527 < n → hipWrap c ty id st seq n = none) ∧
  (∀ (pre : Nat) (a : Address) (cmd : Byte) (data : List Byte), ∃ f, frmReq pre a cmd data = .frmEncode f ∧
    f.pre = pre ∧ f.addr = a ∧ f.cmd = cmd ∧ f.rc = [] ∧ f.data = data ∧
    f.delim = (if addrLen a = 5 then 0x82 else 0x02))
end

