-- ==== Sys2Proof/Laws/Decode.lean ====
section
/-!
SUPPORT. The operation word and its two fields; what the decoder makes of an encoded word.
-/
namespace Sys2Proof

/-- The operation word as a number. -/
theorem opWord_toNat (op imm : Byte) : (opWord op imm).toNat = op.toNat * 256 + imm.toNat := by
  have h : (opWord op imm).toNat = op.toNat <<< 8 ||| imm.toNat := BitVec.toNat_append op imm
  rw [h, Nat.shiftLeft_eq, Nat.mul_comm, ← Nat.two_pow_add_eq_or_of_lt imm.isLt]

@[simp] theorem opByte_opWord (op imm : Byte) : opByte (opWord op imm) = op := by
  apply BitVec.eq_of_toNat_eq
  rw [opByte, BitVec.extractLsb'_toNat, opWord_toNat, Nat.shiftRight_eq_div_pow]
  omega

@[simp] theorem immByte_opWord (op imm : Byte) : immByte (opWord op imm) = imm := by
  apply BitVec.eq_of_toNat_eq
  rw [immByte, BitVec.extractLsb'_toNat, opWord_toNat, Nat.shiftRight_eq_div_pow]
  omega

/-- The word of a select code and an immediate decodes by the table of R82. -/
@[simp] theorem decode_opWord (op imm : Byte) (o : OperandLanes) :
    decode (.op (opWord op imm) o) = decodeOp op imm o := by
  simp only [decode, opByte_opWord, immByte_opWord]

end Sys2Proof
end

