-- ==== Sys2Proof/Laws/State.lean ====
section
/-!
SUPPORT. One lemma for each field of each named update of the state, true by `rfl`: no later proof unfolds
a record update.
-/
namespace Sys2Proof.Machine

/-! ### `deliver` -/

@[simp] theorem deliver_cfg (r : Result) (s : State) :
    (deliver r s).cfg = s.cfg := rfl
@[simp] theorem deliver_mode (r : Result) (s : State) :
    (deliver r s).mode = s.mode := rfl
@[simp] theorem deliver_pstate (r : Result) (s : State) :
    (deliver r s).pstate = s.pstate := rfl
@[simp] theorem deliver_preCnt (r : Result) (s : State) :
    (deliver r s).preCnt = s.preCnt := rfl
@[simp] theorem deliver_fDelim (r : Result) (s : State) :
    (deliver r s).fDelim = s.fDelim := rfl
@[simp] theorem deliver_fKind (r : Result) (s : State) :
    (deliver r s).fKind = s.fKind := rfl
@[simp] theorem deliver_fAddr (r : Result) (s : State) :
    (deliver r s).fAddr = s.fAddr := rfl
@[simp] theorem deliver_aIdx (r : Result) (s : State) :
    (deliver r s).aIdx = s.aIdx := rfl
@[simp] theorem deliver_fCmd (r : Result) (s : State) :
    (deliver r s).fCmd = s.fCmd := rfl
@[simp] theorem deliver_fLen (r : Result) (s : State) :
    (deliver r s).fLen = s.fLen := rfl
@[simp] theorem deliver_dIdx (r : Result) (s : State) :
    (deliver r s).dIdx = s.dIdx := rfl
@[simp] theorem deliver_fRc (r : Result) (s : State) :
    (deliver r s).fRc = s.fRc := rfl
@[simp] theorem deliver_rcLen (r : Result) (s : State) :
    (deliver r s).rcLen = s.rcLen := rfl
@[simp] theorem deliver_buf (r : Result) (s : State) :
    (deliver r s).buf = s.buf := rfl
@[simp] theorem deliver_dataLen (r : Result) (s : State) :
    (deliver r s).dataLen = s.dataLen := rfl
@[simp] theorem deliver_fault (r : Result) (s : State) :
    (deliver r s).fault = s.fault := rfl
@[simp] theorem deliver_faultCode (r : Result) (s : State) :
    (deliver r s).faultCode = s.faultCode := rfl
@[simp] theorem deliver_result (r : Result) (s : State) :
    (deliver r s).result = some (.ok r) := rfl
@[simp] theorem deliver_event (r : Result) (s : State) :
    (deliver r s).event = none := rfl
@[simp] theorem deliver_inputs (r : Result) (s : State) :
    (deliver r s).inputs = s.inputs := rfl

/-! ### `emitComplete` -/

@[simp] theorem emitComplete_cfg (f : Frame) (s : State) :
    (emitComplete f s).cfg = s.cfg := rfl
@[simp] theorem emitComplete_mode (f : Frame) (s : State) :
    (emitComplete f s).mode = s.mode := rfl
@[simp] theorem emitComplete_pstate (f : Frame) (s : State) :
    (emitComplete f s).pstate = s.pstate := rfl
@[simp] theorem emitComplete_preCnt (f : Frame) (s : State) :
    (emitComplete f s).preCnt = s.preCnt := rfl
@[simp] theorem emitComplete_fDelim (f : Frame) (s : State) :
    (emitComplete f s).fDelim = s.fDelim := rfl
@[simp] theorem emitComplete_fKind (f : Frame) (s : State) :
    (emitComplete f s).fKind = s.fKind := rfl
@[simp] theorem emitComplete_fAddr (f : Frame) (s : State) :
    (emitComplete f s).fAddr = s.fAddr := rfl
@[simp] theorem emitComplete_aIdx (f : Frame) (s : State) :
    (emitComplete f s).aIdx = s.aIdx := rfl
@[simp] theorem emitComplete_fCmd (f : Frame) (s : State) :
    (emitComplete f s).fCmd = s.fCmd := rfl
@[simp] theorem emitComplete_fLen (f : Frame) (s : State) :
    (emitComplete f s).fLen = s.fLen := rfl
@[simp] theorem emitComplete_dIdx (f : Frame) (s : State) :
    (emitComplete f s).dIdx = s.dIdx := rfl
@[simp] theorem emitComplete_fRc (f : Frame) (s : State) :
    (emitComplete f s).fRc = s.fRc := rfl
@[simp] theorem emitComplete_rcLen (f : Frame) (s : State) :
    (emitComplete f s).rcLen = s.rcLen := rfl
@[simp] theorem emitComplete_buf (f : Frame) (s : State) :
    (emitComplete f s).buf = s.buf := rfl
@[simp] theorem emitComplete_dataLen (f : Frame) (s : State) :
    (emitComplete f s).dataLen = s.dataLen := rfl
@[simp] theorem emitComplete_fault (f : Frame) (s : State) :
    (emitComplete f s).fault = s.fault := rfl
@[simp] theorem emitComplete_faultCode (f : Frame) (s : State) :
    (emitComplete f s).faultCode = s.faultCode := rfl
@[simp] theorem emitComplete_result (f : Frame) (s : State) :
    (emitComplete f s).result = some (.ok .none) := rfl
@[simp] theorem emitComplete_event (f : Frame) (s : State) :
    (emitComplete f s).event = some f := rfl
@[simp] theorem emitComplete_inputs (f : Frame) (s : State) :
    (emitComplete f s).inputs = s.inputs := rfl

/-! ### `takeFault` -/

@[simp] theorem takeFault_cfg (c : FaultCode) (info : Option Nat) (s : State) :
    (takeFault c info s).cfg = s.cfg := rfl
@[simp] theorem takeFault_mode (c : FaultCode) (info : Option Nat) (s : State) :
    (takeFault c info s).mode = s.mode := rfl
@[simp] theorem takeFault_pstate (c : FaultCode) (info : Option Nat) (s : State) :
    (takeFault c info s).pstate = s.pstate := rfl
@[simp] theorem takeFault_preCnt (c : FaultCode) (info : Option Nat) (s : State) :
    (takeFault c info s).preCnt = s.preCnt := rfl
@[simp] theorem takeFault_fDelim (c : FaultCode) (info : Option Nat) (s : State) :
    (takeFault c info s).fDelim = s.fDelim := rfl
@[simp] theorem takeFault_fKind (c : FaultCode) (info : Option Nat) (s : State) :
    (takeFault c info s).fKind = s.fKind := rfl
@[simp] theorem takeFault_fAddr (c : FaultCode) (info : Option Nat) (s : State) :
    (takeFault c info s).fAddr = s.fAddr := rfl
@[simp] theorem takeFault_aIdx (c : FaultCode) (info : Option Nat) (s : State) :
    (takeFault c info s).aIdx = s.aIdx := rfl
@[simp] theorem takeFault_fCmd (c : FaultCode) (info : Option Nat) (s : State) :
    (takeFault c info s).fCmd = s.fCmd := rfl
@[simp] theorem takeFault_fLen (c : FaultCode) (info : Option Nat) (s : State) :
    (takeFault c info s).fLen = s.fLen := rfl
@[simp] theorem takeFault_dIdx (c : FaultCode) (info : Option Nat) (s : State) :
    (takeFault c info s).dIdx = s.dIdx := rfl
@[simp] theorem takeFault_fRc (c : FaultCode) (info : Option Nat) (s : State) :
    (takeFault c info s).fRc = s.fRc := rfl
@[simp] theorem takeFault_rcLen (c : FaultCode) (info : Option Nat) (s : State) :
    (takeFault c info s).rcLen = s.rcLen := rfl
@[simp] theorem takeFault_buf (c : FaultCode) (info : Option Nat) (s : State) :
    (takeFault c info s).buf = s.buf := rfl
@[simp] theorem takeFault_dataLen (c : FaultCode) (info : Option Nat) (s : State) :
    (takeFault c info s).dataLen = s.dataLen := rfl
@[simp] theorem takeFault_fault (c : FaultCode) (info : Option Nat) (s : State) :
    (takeFault c info s).fault = latchAfter c s.fault := rfl
@[simp] theorem takeFault_faultCode (c : FaultCode) (info : Option Nat) (s : State) :
    (takeFault c info s).faultCode = codeAfter c s.faultCode := rfl
@[simp] theorem takeFault_result (c : FaultCode) (info : Option Nat) (s : State) :
    (takeFault c info s).result = some (.fault c info) := rfl
@[simp] theorem takeFault_event (c : FaultCode) (info : Option Nat) (s : State) :
    (takeFault c info s).event = none := rfl
@[simp] theorem takeFault_inputs (c : FaultCode) (info : Option Nat) (s : State) :
    (takeFault c info s).inputs = s.inputs := rfl

/-! ### `clearLatch` -/

@[simp] theorem clearLatch_cfg (s : State) :
    (clearLatch s).cfg = s.cfg := rfl
@[simp] theorem clearLatch_mode (s : State) :
    (clearLatch s).mode = s.mode := rfl
@[simp] theorem clearLatch_pstate (s : State) :
    (clearLatch s).pstate = s.pstate := rfl
@[simp] theorem clearLatch_preCnt (s : State) :
    (clearLatch s).preCnt = s.preCnt := rfl
@[simp] theorem clearLatch_fDelim (s : State) :
    (clearLatch s).fDelim = s.fDelim := rfl
@[simp] theorem clearLatch_fKind (s : State) :
    (clearLatch s).fKind = s.fKind := rfl
@[simp] theorem clearLatch_fAddr (s : State) :
    (clearLatch s).fAddr = s.fAddr := rfl
@[simp] theorem clearLatch_aIdx (s : State) :
    (clearLatch s).aIdx = s.aIdx := rfl
@[simp] theorem clearLatch_fCmd (s : State) :
    (clearLatch s).fCmd = s.fCmd := rfl
@[simp] theorem clearLatch_fLen (s : State) :
    (clearLatch s).fLen = s.fLen := rfl
@[simp] theorem clearLatch_dIdx (s : State) :
    (clearLatch s).dIdx = s.dIdx := rfl
@[simp] theorem clearLatch_fRc (s : State) :
    (clearLatch s).fRc = s.fRc := rfl
@[simp] theorem clearLatch_rcLen (s : State) :
    (clearLatch s).rcLen = s.rcLen := rfl
@[simp] theorem clearLatch_buf (s : State) :
    (clearLatch s).buf = s.buf := rfl
@[simp] theorem clearLatch_dataLen (s : State) :
    (clearLatch s).dataLen = s.dataLen := rfl
@[simp] theorem clearLatch_fault (s : State) :
    (clearLatch s).fault = false := rfl
@[simp] theorem clearLatch_faultCode (s : State) :
    (clearLatch s).faultCode = 0 := rfl
@[simp] theorem clearLatch_result (s : State) :
    (clearLatch s).result = s.result := rfl
@[simp] theorem clearLatch_event (s : State) :
    (clearLatch s).event = s.event := rfl
@[simp] theorem clearLatch_inputs (s : State) :
    (clearLatch s).inputs = s.inputs := rfl

/-! ### `rearm` -/

@[simp] theorem rearm_cfg (s : State) :
    (rearm s).cfg = s.cfg := rfl
@[simp] theorem rearm_mode (s : State) :
    (rearm s).mode = s.mode := rfl
@[simp] theorem rearm_pstate (s : State) :
    (rearm s).pstate = idleState s.mode := rfl
@[simp] theorem rearm_preCnt (s : State) :
    (rearm s).preCnt = 0 := rfl
@[simp] theorem rearm_fDelim (s : State) :
    (rearm s).fDelim = s.fDelim := rfl
@[simp] theorem rearm_fKind (s : State) :
    (rearm s).fKind = s.fKind := rfl
@[simp] theorem rearm_fAddr (s : State) :
    (rearm s).fAddr = s.fAddr := rfl
@[simp] theorem rearm_aIdx (s : State) :
    (rearm s).aIdx = 0 := rfl
@[simp] theorem rearm_fCmd (s : State) :
    (rearm s).fCmd = s.fCmd := rfl
@[simp] theorem rearm_fLen (s : State) :
    (rearm s).fLen = s.fLen := rfl
@[simp] theorem rearm_dIdx (s : State) :
    (rearm s).dIdx = 0 := rfl
@[simp] theorem rearm_fRc (s : State) :
    (rearm s).fRc = s.fRc := rfl
@[simp] theorem rearm_rcLen (s : State) :
    (rearm s).rcLen = 0 := rfl
@[simp] theorem rearm_buf (s : State) :
    (rearm s).buf = s.buf := rfl
@[simp] theorem rearm_dataLen (s : State) :
    (rearm s).dataLen = 0 := rfl
@[simp] theorem rearm_fault (s : State) :
    (rearm s).fault = s.fault := rfl
@[simp] theorem rearm_faultCode (s : State) :
    (rearm s).faultCode = s.faultCode := rfl
@[simp] theorem rearm_result (s : State) :
    (rearm s).result = s.result := rfl
@[simp] theorem rearm_event (s : State) :
    (rearm s).event = s.event := rfl
@[simp] theorem rearm_inputs (s : State) :
    (rearm s).inputs = s.inputs := rfl

/-! ### `advanceData` -/

@[simp] theorem advanceData_cfg (s : State) :
    (advanceData s).cfg = s.cfg := rfl
@[simp] theorem advanceData_mode (s : State) :
    (advanceData s).mode = s.mode := rfl
@[simp] theorem advanceData_pstate (s : State) :
    (advanceData s).pstate = (if s.dIdx + 1 = s.fLen then .checksum else .data) := rfl
@[simp] theorem advanceData_preCnt (s : State) :
    (advanceData s).preCnt = s.preCnt := rfl
@[simp] theorem advanceData_fDelim (s : State) :
    (advanceData s).fDelim = s.fDelim := rfl
@[simp] theorem advanceData_fKind (s : State) :
    (advanceData s).fKind = s.fKind := rfl
@[simp] theorem advanceData_fAddr (s : State) :
    (advanceData s).fAddr = s.fAddr := rfl
@[simp] theorem advanceData_aIdx (s : State) :
    (advanceData s).aIdx = s.aIdx := rfl
@[simp] theorem advanceData_fCmd (s : State) :
    (advanceData s).fCmd = s.fCmd := rfl
@[simp] theorem advanceData_fLen (s : State) :
    (advanceData s).fLen = s.fLen := rfl
@[simp] theorem advanceData_dIdx (s : State) :
    (advanceData s).dIdx = s.dIdx + 1 := rfl
@[simp] theorem advanceData_fRc (s : State) :
    (advanceData s).fRc = s.fRc := rfl
@[simp] theorem advanceData_rcLen (s : State) :
    (advanceData s).rcLen = s.rcLen := rfl
@[simp] theorem advanceData_buf (s : State) :
    (advanceData s).buf = s.buf := rfl
@[simp] theorem advanceData_dataLen (s : State) :
    (advanceData s).dataLen = s.dataLen := rfl
@[simp] theorem advanceData_fault (s : State) :
    (advanceData s).fault = s.fault := rfl
@[simp] theorem advanceData_faultCode (s : State) :
    (advanceData s).faultCode = s.faultCode := rfl
@[simp] theorem advanceData_result (s : State) :
    (advanceData s).result = s.result := rfl
@[simp] theorem advanceData_event (s : State) :
    (advanceData s).event = s.event := rfl
@[simp] theorem advanceData_inputs (s : State) :
    (advanceData s).inputs = s.inputs := rfl

/-! ### `feedStartDelimiter` -/

@[simp] theorem feedStartDelimiter_cfg (b : Byte) (s : State) :
    (feedStartDelimiter b s).cfg = s.cfg := rfl
@[simp] theorem feedStartDelimiter_mode (b : Byte) (s : State) :
    (feedStartDelimiter b s).mode = s.mode := rfl
@[simp] theorem feedStartDelimiter_pstate (b : Byte) (s : State) :
    (feedStartDelimiter b s).pstate = .address := rfl
@[simp] theorem feedStartDelimiter_preCnt (b : Byte) (s : State) :
    (feedStartDelimiter b s).preCnt = s.preCnt := rfl
@[simp] theorem feedStartDelimiter_fDelim (b : Byte) (s : State) :
    (feedStartDelimiter b s).fDelim = b := rfl
@[simp] theorem feedStartDelimiter_fKind (b : Byte) (s : State) :
    (feedStartDelimiter b s).fKind = delimKind b := rfl
@[simp] theorem feedStartDelimiter_fAddr (b : Byte) (s : State) :
    (feedStartDelimiter b s).fAddr = s.fAddr := rfl
@[simp] theorem feedStartDelimiter_aIdx (b : Byte) (s : State) :
    (feedStartDelimiter b s).aIdx = 0 := rfl
@[simp] theorem feedStartDelimiter_fCmd (b : Byte) (s : State) :
    (feedStartDelimiter b s).fCmd = s.fCmd := rfl
@[simp] theorem feedStartDelimiter_fLen (b : Byte) (s : State) :
    (feedStartDelimiter b s).fLen = s.fLen := rfl
@[simp] theorem feedStartDelimiter_dIdx (b : Byte) (s : State) :
    (feedStartDelimiter b s).dIdx = s.dIdx := rfl
@[simp] theorem feedStartDelimiter_fRc (b : Byte) (s : State) :
    (feedStartDelimiter b s).fRc = s.fRc := rfl
@[simp] theorem feedStartDelimiter_rcLen (b : Byte) (s : State) :
    (feedStartDelimiter b s).rcLen = s.rcLen := rfl
@[simp] theorem feedStartDelimiter_buf (b : Byte) (s : State) :
    (feedStartDelimiter b s).buf = s.buf := rfl
@[simp] theorem feedStartDelimiter_dataLen (b : Byte) (s : State) :
    (feedStartDelimiter b s).dataLen = s.dataLen := rfl
@[simp] theorem feedStartDelimiter_fault (b : Byte) (s : State) :
    (feedStartDelimiter b s).fault = s.fault := rfl
@[simp] theorem feedStartDelimiter_faultCode (b : Byte) (s : State) :
    (feedStartDelimiter b s).faultCode = s.faultCode := rfl
@[simp] theorem feedStartDelimiter_result (b : Byte) (s : State) :
    (feedStartDelimiter b s).result = s.result := rfl
@[simp] theorem feedStartDelimiter_event (b : Byte) (s : State) :
    (feedStartDelimiter b s).event = s.event := rfl
@[simp] theorem feedStartDelimiter_inputs (b : Byte) (s : State) :
    (feedStartDelimiter b s).inputs = s.inputs := rfl

/-! ### `feedCommand` -/

@[simp] theorem feedCommand_cfg (b : Byte) (s : State) :
    (feedCommand b s).cfg = s.cfg := rfl
@[simp] theorem feedCommand_mode (b : Byte) (s : State) :
    (feedCommand b s).mode = s.mode := rfl
@[simp] theorem feedCommand_pstate (b : Byte) (s : State) :
    (feedCommand b s).pstate = .dataLength := rfl
@[simp] theorem feedCommand_preCnt (b : Byte) (s : State) :
    (feedCommand b s).preCnt = s.preCnt := rfl
@[simp] theorem feedCommand_fDelim (b : Byte) (s : State) :
    (feedCommand b s).fDelim = s.fDelim := rfl
@[simp] theorem feedCommand_fKind (b : Byte) (s : State) :
    (feedCommand b s).fKind = s.fKind := rfl
@[simp] theorem feedCommand_fAddr (b : Byte) (s : State) :
    (feedCommand b s).fAddr = s.fAddr := rfl
@[simp] theorem feedCommand_aIdx (b : Byte) (s : State) :
    (feedCommand b s).aIdx = s.aIdx := rfl
@[simp] theorem feedCommand_fCmd (b : Byte) (s : State) :
    (feedCommand b s).fCmd = b := rfl
@[simp] theorem feedCommand_fLen (b : Byte) (s : State) :
    (feedCommand b s).fLen = s.fLen := rfl
@[simp] theorem feedCommand_dIdx (b : Byte) (s : State) :
    (feedCommand b s).dIdx = s.dIdx := rfl
@[simp] theorem feedCommand_fRc (b : Byte) (s : State) :
    (feedCommand b s).fRc = s.fRc := rfl
@[simp] theorem feedCommand_rcLen (b : Byte) (s : State) :
    (feedCommand b s).rcLen = s.rcLen := rfl
@[simp] theorem feedCommand_buf (b : Byte) (s : State) :
    (feedCommand b s).buf = s.buf := rfl
@[simp] theorem feedCommand_dataLen (b : Byte) (s : State) :
    (feedCommand b s).dataLen = s.dataLen := rfl
@[simp] theorem feedCommand_fault (b : Byte) (s : State) :
    (feedCommand b s).fault = s.fault := rfl
@[simp] theorem feedCommand_faultCode (b : Byte) (s : State) :
    (feedCommand b s).faultCode = s.faultCode := rfl
@[simp] theorem feedCommand_result (b : Byte) (s : State) :
    (feedCommand b s).result = s.result := rfl
@[simp] theorem feedCommand_event (b : Byte) (s : State) :
    (feedCommand b s).event = s.event := rfl
@[simp] theorem feedCommand_inputs (b : Byte) (s : State) :
    (feedCommand b s).inputs = s.inputs := rfl

/-! ### `hardwareReset` -/

@[simp] theorem hardwareReset_cfg (s : State) :
    (hardwareReset s).cfg = s.cfg := rfl
@[simp] theorem hardwareReset_mode (s : State) :
    (hardwareReset s).mode = .uninit := rfl
@[simp] theorem hardwareReset_pstate (s : State) :
    (hardwareReset s).pstate = .notInCommand := rfl
@[simp] theorem hardwareReset_preCnt (s : State) :
    (hardwareReset s).preCnt = 0 := rfl
@[simp] theorem hardwareReset_fDelim (s : State) :
    (hardwareReset s).fDelim = 0 := rfl
@[simp] theorem hardwareReset_fKind (s : State) :
    (hardwareReset s).fKind = .short := rfl
@[simp] theorem hardwareReset_fAddr (s : State) :
    (hardwareReset s).fAddr = ⟨0, 0, 0, 0, 0⟩ := rfl
@[simp] theorem hardwareReset_aIdx (s : State) :
    (hardwareReset s).aIdx = 0 := rfl
@[simp] theorem hardwareReset_fCmd (s : State) :
    (hardwareReset s).fCmd = 0 := rfl
@[simp] theorem hardwareReset_fLen (s : State) :
    (hardwareReset s).fLen = 0 := rfl
@[simp] theorem hardwareReset_dIdx (s : State) :
    (hardwareReset s).dIdx = 0 := rfl
@[simp] theorem hardwareReset_fRc (s : State) :
    (hardwareReset s).fRc = ⟨0, 0⟩ := rfl
@[simp] theorem hardwareReset_rcLen (s : State) :
    (hardwareReset s).rcLen = 0 := rfl
@[simp] theorem hardwareReset_buf (s : State) :
    (hardwareReset s).buf = [] := rfl
@[simp] theorem hardwareReset_dataLen (s : State) :
    (hardwareReset s).dataLen = 0 := rfl
@[simp] theorem hardwareReset_fault (s : State) :
    (hardwareReset s).fault = false := rfl
@[simp] theorem hardwareReset_faultCode (s : State) :
    (hardwareReset s).faultCode = 0 := rfl
@[simp] theorem hardwareReset_result (s : State) :
    (hardwareReset s).result = none := rfl
@[simp] theorem hardwareReset_event (s : State) :
    (hardwareReset s).event = none := rfl
@[simp] theorem hardwareReset_inputs (s : State) :
    (hardwareReset s).inputs = s.inputs := rfl

/-! ### `storeRcByte` -/

@[simp] theorem storeRcByte_cfg (b : Byte) (s : State) :
    (storeRcByte b s).cfg = s.cfg := by unfold storeRcByte; split <;> rfl
@[simp] theorem storeRcByte_mode (b : Byte) (s : State) :
    (storeRcByte b s).mode = s.mode := by unfold storeRcByte; split <;> rfl
@[simp] theorem storeRcByte_pstate (b : Byte) (s : State) :
    (storeRcByte b s).pstate = s.pstate := by unfold storeRcByte; split <;> rfl
@[simp] theorem storeRcByte_preCnt (b : Byte) (s : State) :
    (storeRcByte b s).preCnt = s.preCnt := by unfold storeRcByte; split <;> rfl
@[simp] theorem storeRcByte_fDelim (b : Byte) (s : State) :
    (storeRcByte b s).fDelim = s.fDelim := by unfold storeRcByte; split <;> rfl
@[simp] theorem storeRcByte_fKind (b : Byte) (s : State) :
    (storeRcByte b s).fKind = s.fKind := by unfold storeRcByte; split <;> rfl
@[simp] theorem storeRcByte_fAddr (b : Byte) (s : State) :
    (storeRcByte b s).fAddr = s.fAddr := by unfold storeRcByte; split <;> rfl
@[simp] theorem storeRcByte_aIdx (b : Byte) (s : State) :
    (storeRcByte b s).aIdx = s.aIdx := by unfold storeRcByte; split <;> rfl
@[simp] theorem storeRcByte_fCmd (b : Byte) (s : State) :
    (storeRcByte b s).fCmd = s.fCmd := by unfold storeRcByte; split <;> rfl
@[simp] theorem storeRcByte_fLen (b : Byte) (s : State) :
    (storeRcByte b s).fLen = s.fLen := by unfold storeRcByte; split <;> rfl
@[simp] theorem storeRcByte_dIdx (b : Byte) (s : State) :
    (storeRcByte b s).dIdx = s.dIdx := by unfold storeRcByte; split <;> rfl
@[simp] theorem storeRcByte_buf (b : Byte) (s : State) :
    (storeRcByte b s).buf = s.buf := by unfold storeRcByte; split <;> rfl
@[simp] theorem storeRcByte_dataLen (b : Byte) (s : State) :
    (storeRcByte b s).dataLen = s.dataLen := by unfold storeRcByte; split <;> rfl
@[simp] theorem storeRcByte_fault (b : Byte) (s : State) :
    (storeRcByte b s).fault = s.fault := by unfold storeRcByte; split <;> rfl
@[simp] theorem storeRcByte_faultCode (b : Byte) (s : State) :
    (storeRcByte b s).faultCode = s.faultCode := by unfold storeRcByte; split <;> rfl
@[simp] theorem storeRcByte_result (b : Byte) (s : State) :
    (storeRcByte b s).result = s.result := by unfold storeRcByte; split <;> rfl
@[simp] theorem storeRcByte_event (b : Byte) (s : State) :
    (storeRcByte b s).event = s.event := by unfold storeRcByte; split <;> rfl
@[simp] theorem storeRcByte_inputs (b : Byte) (s : State) :
    (storeRcByte b s).inputs = s.inputs := by unfold storeRcByte; split <;> rfl

end Sys2Proof.Machine
end

