-- ==== Sys2Proof/Laws/Memory.lean ====
section
/-!
SUPPORT. The data buffer: a read after a write at the same index gives the byte written, a write leaves
every other index alone, and every operation keeps the canonical form.
-/
namespace Sys2Proof.Machine

theorem bufRead_bufErase_same (m : Memory) (i : Nat) : bufRead (bufErase i m) i = bufDefault := by
  induction m with
  | nil => rfl
  | cons c rest ih =>
    by_cases h : c.1 = i
    · simpa [bufErase, h] using ih
    · simpa [bufErase, bufRead, h] using ih

theorem bufRead_bufErase_other (m : Memory) {i j : Nat} (hij : j ≠ i) :
    bufRead (bufErase i m) j = bufRead m j := by
  induction m with
  | nil => rfl
  | cons c rest ih =>
    by_cases h : c.1 = i
    · have hj : c.1 ≠ j := fun e => hij (e ▸ h)
      simpa [bufErase, bufRead, h, hj, Ne.symm hij] using ih
    · by_cases hj : c.1 = j
      · simp [bufErase, bufRead, hj, hij]
      · simpa [bufErase, bufRead, h, hj] using ih

theorem bufRead_bufInsert_same (m : Memory) (i : Nat) (v : Byte) (h : ∀ c ∈ m, c.1 ≠ i) :
    bufRead (bufInsert i v m) i = v := by
  induction m with
  | nil => simp [bufInsert, bufRead]
  | cons c rest ih =>
    have hc : c.1 ≠ i := h c (by simp)
    have hr : ∀ d ∈ rest, d.1 ≠ i := fun d hd => h d (by simp [hd])
    by_cases hlt : i < c.1
    · simp [bufInsert, hlt, bufRead]
    · simp [bufInsert, hlt, bufRead, hc, ih hr]

theorem bufRead_bufInsert_other (m : Memory) {i j : Nat} (v : Byte) (hij : j ≠ i) :
    bufRead (bufInsert i v m) j = bufRead m j := by
  induction m with
  | nil => simp [bufInsert, bufRead, Ne.symm hij]
  | cons c rest ih =>
    by_cases hlt : i < c.1
    · simp [bufInsert, hlt, bufRead, Ne.symm hij]
    · simp [bufInsert, hlt, bufRead, ih]

theorem mem_bufErase_ne {m : Memory} {i : Nat} {c : Host.Cell} (h : c ∈ bufErase i m) : c.1 ≠ i := by
  simp only [bufErase, List.mem_filter] at h
  simpa using h.2

/-- A read after a write to the same index gives the byte written. -/
@[simp] theorem bufRead_bufWrite_same (m : Memory) (i : Nat) (v : Byte) : bufRead (bufWrite m i v) i = v := by
  unfold bufWrite
  split
  · next h => rw [bufRead_bufErase_same, h]
  · exact bufRead_bufInsert_same _ _ _ fun c hc => mem_bufErase_ne hc

/-- A write leaves every other index alone. -/
theorem bufRead_bufWrite_other (m : Memory) {i j : Nat} (v : Byte) (hij : j ≠ i) :
    bufRead (bufWrite m i v) j = bufRead m j := by
  unfold bufWrite
  split
  · exact bufRead_bufErase_other m hij
  · rw [bufRead_bufInsert_other _ _ hij, bufRead_bufErase_other m hij]

theorem mem_bufInsert {m : Memory} {i : Nat} {v : Byte} {c : Host.Cell} :
    c ∈ bufInsert i v m ↔ c = (i, v) ∨ c ∈ m := by
  induction m with
  | nil => simp [bufInsert]
  | cons d rest ih =>
    by_cases hlt : i < d.1
    · simp [bufInsert, hlt]
    · simp only [bufInsert, hlt, if_false, List.mem_cons, ih]
      tauto

theorem bufInsert_rising {m : Memory} {i : Nat} {v : Byte} (h : m.Pairwise fun a b => a.1 < b.1)
    (hne : ∀ c ∈ m, c.1 ≠ i) : (bufInsert i v m).Pairwise fun a b => a.1 < b.1 := by
  induction m with
  | nil => simp [bufInsert]
  | cons d rest ih =>
    have hd : d.1 ≠ i := hne d (by simp)
    have hr : ∀ c ∈ rest, c.1 ≠ i := fun c hc => hne c (by simp [hc])
    rw [List.pairwise_cons] at h
    by_cases hlt : i < d.1
    · simp only [bufInsert, hlt, if_true, List.pairwise_cons]
      refine ⟨fun c hc => ?_, h⟩
      rcases List.mem_cons.1 hc with rfl | hc
      · exact hlt
      · exact hlt.trans (h.1 c hc)
    · simp only [bufInsert, hlt, if_false, List.pairwise_cons]
      refine ⟨fun c hc => ?_, ih h.2 hr⟩
      rcases mem_bufInsert.1 hc with rfl | hc
      · show d.1 < i
        omega
      · exact h.1 c hc

theorem bufErase_wf {m : Memory} (i : Nat) (h : Memory.wf m = true) : Memory.wf (bufErase i m) = true := by
  simp only [Memory.wf, Bool.and_eq_true, decide_eq_true_eq, List.all_eq_true] at h ⊢
  refine ⟨h.1.filter _, fun c hc => h.2 c ?_⟩
  simp only [bufErase, List.mem_filter] at hc
  exact hc.1

/-- Every write inside the buffer keeps the canonical form. -/
theorem bufWrite_wf {m : Memory} {i : Nat} (v : Byte) (h : Memory.wf m = true) (hi : i < Config.dataBufDepth) :
    Memory.wf (bufWrite m i v) = true := by
  unfold bufWrite
  split
  · exact bufErase_wf i h
  · next hv =>
    have he := bufErase_wf i h
    simp only [Memory.wf, Bool.and_eq_true, decide_eq_true_eq, List.all_eq_true] at he ⊢
    refine ⟨bufInsert_rising he.1 fun c hc => mem_bufErase_ne hc, fun c hc => ?_⟩
    rcases mem_bufInsert.1 hc with rfl | hc
    · simpa [hv] using hi
    · exact he.2 c hc

/-- The buffer after reset is in canonical form. -/
theorem reset_buf_wf (c : Config) : Memory.wf (State.resetWith c).buf = true := rfl

@[simp] theorem bufPrefix_length (m : Memory) (n : Nat) : (bufPrefix m n).length = n := by simp [bufPrefix]

theorem bufPrefix_succ (m : Memory) (n : Nat) : bufPrefix m (n + 1) = bufPrefix m n ++ [bufRead m n] := by
  simp [bufPrefix, List.range_succ]

/-- A write at or above the prefix leaves the prefix alone. -/
theorem bufPrefix_bufWrite (m : Memory) (n i : Nat) (v : Byte) (h : n ≤ i) :
    bufPrefix (bufWrite m i v) n = bufPrefix m n := by
  simp only [bufPrefix]
  refine List.map_congr_left fun j hj => bufRead_bufWrite_other m v ?_
  have := List.mem_range.1 hj
  omega

/-- Appending at the end of the prefix: what PRS_FEED does with a payload byte. -/
theorem bufPrefix_bufWrite_end (m : Memory) (n : Nat) (v : Byte) :
    bufPrefix (bufWrite m n v) (n + 1) = bufPrefix m n ++ [v] := by
  rw [bufPrefix_succ, bufPrefix_bufWrite _ _ _ _ le_rfl, bufRead_bufWrite_same]

end Sys2Proof.Machine
end

