-- ==== Sys2Proof/Laws/Operands.lean ====
section
/-!
SUPPORT. The small lemmas of the operand forms: checksums, lengths, delimiter fields.
-/
namespace Sys2Proof.Machine

/-! ### Checksum -/

@[simp] theorem xor8_nil : xor8 [] = 0 := rfl

@[simp] theorem xor8_cons (b : Byte) (x : List Byte) : xor8 (b :: x) = b ^^^ xor8 x := rfl

theorem xor8_append (x y : List Byte) : xor8 (x ++ y) = xor8 x ^^^ xor8 y := by
  induction x with
  | nil => simp
  | cons b x ih => simp [ih, BitVec.xor_assoc]

theorem foldl_xor_eq (x : List Byte) (a : Byte) : x.foldl (· ^^^ ·) a = a ^^^ xor8 x := by
  induction x generalizing a with
  | nil => simp
  | cons b x ih => simp [ih, BitVec.xor_assoc]

/-- The running exclusive-or from the left is `xor8` (R13). -/
theorem foldl_xor_zero (x : List Byte) : x.foldl (· ^^^ ·) 0 = xor8 x := by simp [foldl_xor_eq]

/-! ### Lengths -/

@[simp] theorem addrBytes_length (a : Address) : (addrBytes a).length = addrLen a := by cases a <;> rfl

@[simp] theorem addrLen_eq_kindLen (a : Address) : addrLen a = kindLen (addrKind a) := by cases a <;> rfl

theorem frameBody_length (f : Frame) :
    (frameBody f).length = addrLen f.addr + 3 + f.rc.length + f.data.length := by
  simp [frameBody]
  omega

theorem frameBytes_length (f : Frame) :
    (frameBytes f).length = f.pre + addrLen f.addr + 4 + f.rc.length + f.data.length := by
  simp [frameBytes, frameBody_length]
  omega

theorem unpack3_length (b0 b1 b2 : Byte) : (unpack3 b0 b1 b2).length = 4 := rfl

theorem pack4_length (c0 c1 c2 c3 : Byte) : (pack4 c0 c1 c2 c3).length = 3 := rfl

@[simp] theorem fitString_length (c : Config) (txt : List Byte) (len : Nat) :
    (fitString c txt len).length = len := by
  unfold fitString
  have h : (if len ≥ fitReserve c then len - fitReserve c else 0) ≤ len := by split <;> omega
  simp only [List.length_append, List.length_take, List.length_replicate]
  omega

theorem unpackGroups_length (x : List Byte) : (unpackGroups x).length = 4 * (x.length / 3) := by
  induction x using unpackGroups.induct with
  | case1 b0 b1 b2 rest ih =>
    simp only [unpackGroups, List.length_append, unpack3_length, ih, List.length_cons]
    omega
  | case2 => simp [unpackGroups]
  | case3 => simp [unpackGroups]
  | case4 => simp [unpackGroups]

theorem packGroups_length (x : List Byte) : (packGroups x).length = 3 * (x.length / 4) := by
  induction x using packGroups.induct with
  | case1 c0 c1 c2 c3 rest ih =>
    simp only [packGroups, List.length_append, pack4_length, ih, List.length_cons]
    omega
  | case2 => simp [packGroups]
  | case3 => simp [packGroups]
  | case4 => simp [packGroups]
  | case5 => simp [packGroups]

/-! ### The tests of the frame codec (R140, R143) -/

theorem encodable_iff (f : Frame) :
    encodable f = true ↔ (f.rc.length = 0 ∨ f.rc.length = 2) ∧ f.rc.length + f.data.length ≤ 255 := by
  simp only [encodable, Bool.and_eq_true, Bool.or_eq_true, beq_iff_eq, decide_eq_true_eq]
  rfl

theorem encodeFault_none_iff (f : Frame) : encodeFault f = none ↔ encodable f = true := by
  rw [encodable_iff]
  unfold encodeFault frameDataLen
  split
  · simp only [reduceCtorEq, false_iff]
    omega
  · split
    · simp only [reduceCtorEq, false_iff]
      omega
    · simp only [true_iff]
      omega

theorem codecOp_of_encodable {f : Frame} (h : encodable f = true) (r : Result) (s : State) :
    codecOp f r s = deliver r s := by
  simp [codecOp, (encodeFault_none_iff f).2 h]

/-! ### Delimiter -/

theorem isResponse_iff (d : Byte) : isResponse d = true ↔ d.toNat % 8 = 6 := by
  revert d
  decide

theorem delimKind_eq (d : Byte) : delimKind d = if 128 ≤ d.toNat then .long else .short := by
  revert d
  decide

end Sys2Proof.Machine
end

