-- ==== Sys2Proof/Laws/Ops.lean ====
section
/-!
SUPPORT. One lemma for each shared operation that says once everything it can do; the provers cite them
instead of unfolding.
-/
namespace Sys2Proof.Machine

/-! ### Unchanged registers -/

theorem SameButLatch.refl (s : State) : SameButLatch s s := by constructor <;> intros <;> rfl

theorem SameRegs.refl (s : State) : SameRegs s s := ⟨SameButLatch.refl s, rfl, rfl⟩

theorem SameButLatch.trans {s t u : State} (h : SameButLatch s t) (k : SameButLatch t u) :
    SameButLatch s u := by
  constructor
  · exact k.cfg.trans h.cfg
  · exact k.mode.trans h.mode
  · exact k.pstate.trans h.pstate
  · exact k.preCnt.trans h.preCnt
  · exact k.fDelim.trans h.fDelim
  · exact k.fKind.trans h.fKind
  · exact k.fAddr.trans h.fAddr
  · exact k.aIdx.trans h.aIdx
  · exact k.fCmd.trans h.fCmd
  · exact k.fLen.trans h.fLen
  · exact k.dIdx.trans h.dIdx
  · exact k.fRc.trans h.fRc
  · exact k.rcLen.trans h.rcLen
  · exact k.buf.trans h.buf
  · exact fun i => (k.bufByte i).trans (h.bufByte i)
  · exact k.dataLen.trans h.dataLen
  · exact k.inputs.trans h.inputs

theorem SameRegs.trans {s t u : State} (h : SameRegs s t) (k : SameRegs t u) : SameRegs s u :=
  ⟨h.rest.trans k.rest, k.fault.trans h.fault, k.faultCode.trans h.faultCode⟩

theorem SamePosition.refl (s : State) : SamePosition s s := by constructor <;> rfl

/-- Unchanged registers keep the parser at its point. -/
theorem SameRegs.samePosition {s t : State} (h : SameRegs s t) : SamePosition s t :=
  ⟨h.rest.mode, h.rest.pstate, h.rest.preCnt, h.rest.aIdx, h.rest.dIdx, h.rest.rcLen, h.rest.dataLen, h.fault⟩

/-! ### The ports -/

theorem deliver_sameRegs (r : Result) (s : State) : SameRegs s (deliver r s) := by
  refine ⟨?_, rfl, rfl⟩
  constructor <;> intros <;> rfl

/-- What every success without an event is. -/
theorem deliver_pureOk (r : Result) (s : State) : PureOk s (deliver r s) r :=
  ⟨rfl, rfl, deliver_sameRegs r s⟩

theorem takeFault_sameButLatch (c : FaultCode) (info : Option Nat) (s : State) :
    SameButLatch s (takeFault c info s) := by
  constructor <;> intros <;> rfl

/-- What taking a fault that does not latch is. -/
theorem takeFault_plainFault {c : FaultCode} (h : faultLatches c = false) (info : Option Nat) (s : State) :
    PlainFault s (takeFault c info s) c info :=
  ⟨rfl, rfl, takeFault_sameButLatch c info s, by simp [latchAfter, h], by simp [codeAfter, h]⟩

theorem faultLatches_iff (c : FaultCode) : faultLatches c = true ↔ c = .shortResponseLength := by
  cases c <;> simp [faultLatches]

theorem rearm_rearmed (s : State) : Rearmed (rearm s) := by constructor <;> rfl

theorem rearm_sameFrameRegs (s : State) : SameFrameRegs s (rearm s) := by constructor <;> intros <;> rfl

/-! ### Guards of the parser operations -/

/-- The guard answers in exactly one of three ways (R253). -/
theorem parserGuard_cases (s : State) :
    (s.fault = true ∧ parserGuard s = some (.parserFaulted, some s.faultCode.toNat)) ∨
    (s.fault = false ∧ s.mode = .uninit ∧ parserGuard s = some (.parserUninit, none)) ∨
    (Running s ∧ parserGuard s = none) := by
  unfold parserGuard Running
  cases hf : s.fault
  · by_cases hm : s.mode = .uninit <;> simp [hm]
  · simp

theorem parserGuard_running {s : State} (h : Running s) : parserGuard s = none := by
  simp [parserGuard, h.1, h.2]

theorem parserGuard_none_iff {s : State} : parserGuard s = none ↔ Running s := by
  refine ⟨fun h => ?_, parserGuard_running⟩
  rcases parserGuard_cases s with ⟨_, g⟩ | ⟨_, _, g⟩ | ⟨r, _⟩
  · simp [g] at h
  · simp [g] at h
  · exact r

/-- The guard never answers with a latching code. -/
theorem parserGuard_plain {s : State} {c : FaultCode} {info : Option Nat}
    (h : parserGuard s = some (c, info)) : faultLatches c = false := by
  rcases parserGuard_cases s with ⟨_, g⟩ | ⟨_, _, g⟩ | ⟨_, g⟩ <;> rw [g] at h <;> cases h <;> rfl

/-! ### PRS_FEED, state by state -/

theorem execPrsFeed_running {s : State} (h : Running s) (b : Byte) :
    execPrsFeed b s = match s.pstate with
      | .notInCommand => .next (deliver .none (feedNotInCommand b s))
      | .preamble => .next (deliver .none (feedPreamble b s))
      | .startDelimiter => .next (deliver .none (feedStartDelimiter b s))
      | .address => feedAddress b s
      | .command => .next (deliver .none (feedCommand b s))
      | .dataLength => .next (feedDataLength b s)
      | .data => feedData b s
      | .checksum => .next (feedChecksum b s) := by
  unfold execPrsFeed
  generalize hg : parserGuard s = g
  obtain rfl : g = none := by rw [← hg, parserGuard_running h]
  cases s.pstate <;> rfl

theorem storeIndex_rc {s : State} (h : isResponse s.fDelim = true) (hd : s.dIdx.toNat < 2) :
    storeIndex s = none := by
  simp [storeIndex, isRcByte, h, hd]

theorem storeIndex_buf {s : State} (h : ¬(isResponse s.fDelim = true ∧ s.dIdx.toNat < 2)) :
    storeIndex s = some s.dataLen.toNat := by
  have hf : isRcByte s = false := by simpa [isRcByte] using h
  simp [storeIndex, hf]

/-- What PRS_FEED in state Data can do: store a response-code byte, or store at the end of the prefix. -/
theorem feedData_cases (b : Byte) (s : State) :
    (isResponse s.fDelim = true ∧ s.dIdx.toNat < 2 ∧
      feedData b s = .next (deliver .none (advanceData (storeRcByte b s)))) ∨
    (¬(isResponse s.fDelim = true ∧ s.dIdx.toNat < 2) ∧ s.dataLen.toNat < 255 ∧
      feedData b s = .next (deliver .none (advanceData
        { s with buf := bufWrite s.buf s.dataLen.toNat b, dataLen := s.dataLen + 1 }))) ∨
    (¬(isResponse s.fDelim = true ∧ s.dIdx.toNat < 2) ∧ ¬s.dataLen.toNat < 255 ∧
      feedData b s = .fault .bufferIndexOutOfRange) := by
  by_cases h : isResponse s.fDelim = true ∧ s.dIdx.toNat < 2
  · exact .inl ⟨h.1, h.2, by simp [feedData, storeIndex_rc h.1 h.2]⟩
  · right
    by_cases hi : s.dataLen.toNat < 255
    · exact .inl ⟨h, hi, by simp [feedData, storeIndex_buf h, hi]⟩
    · exact .inr ⟨h, hi, by simp [feedData, storeIndex_buf h, hi]⟩

/-- The byte registers of an address, in range. -/
theorem setAddrByte_some {r : AddrRegs} {i : BitVec 3} (b : Byte) (h : i.toNat < 5) :
    ∃ q, setAddrByte r i b = some q ∧
      [q.a0, q.a1, q.a2, q.a3, q.a4] = [r.a0, r.a1, r.a2, r.a3, r.a4].set i.toNat b := by
  interval_cases hi : i.toNat <;> simp [setAddrByte, hi]

theorem feedAddress_next {s : State} (b : Byte) (h : s.aIdx.toNat < 5) :
    ∃ q, setAddrByte s.fAddr s.aIdx b = some q ∧
      feedAddress b s = .next (deliver .none { s with
        fAddr := q, aIdx := s.aIdx + 1,
        pstate := if (s.aIdx + 1).toNat = kindLen s.fKind then .command else .address }) := by
  obtain ⟨q, hq, -⟩ := setAddrByte_some (r := s.fAddr) b h
  exact ⟨q, hq, by simp [feedAddress, hq]⟩

/-! ### Pure operations -/

/-- Every pure operation ends `ok` or in a fault that latches nothing, and changes only the ports; its
outcome depends on the operand and the parameters alone. -/
theorem exec_pure {i : Instr} (h : isPure i = true) (c : Config) :
    (∃ r, ∀ s : State, s.cfg = c → exec i s = .next (deliver r s)) ∨
    (∃ f n, faultLatches f = false ∧ ∀ s : State, s.cfg = c → exec i s = .next (takeFault f (some n) s)) := by
  have codec : ∀ (f : Frame) (r : Result),
      (∃ q, ∀ s : State, s.cfg = c → codecOp f r s = deliver q s) ∨
      (∃ g n, faultLatches g = false ∧ ∀ s : State, s.cfg = c → codecOp f r s = takeFault g (some n) s) := by
    intro f r
    unfold codecOp encodeFault
    split
    · next h =>
      split at h
      · cases h; exact .inr ⟨_, _, rfl, fun _ _ => rfl⟩
      · split at h
        · cases h; exact .inr ⟨_, _, rfl, fun _ _ => rfl⟩
        · cases h
    · exact .inl ⟨r, fun _ _ => rfl⟩
  cases i with
  | addrMkShort p =>
    by_cases hp : p.toNat > 15
    · exact .inr ⟨.invalidArgument, p.toNat, rfl, fun s _ => by simp [exec, execAddrMkShort, hp]⟩
    · refine .inl ⟨.address (.short (shortAddrMask c ||| p)), fun s hs => ?_⟩
      simp [exec, execAddrMkShort, hp, hs]
  | addrMkLong mfr dtype id =>
    match id with
    | [i0, i1, i2] => exact .inl ⟨_, fun s _ => rfl⟩
    | [] => exact .inr ⟨.invalidArgument, _, rfl, fun s _ => rfl⟩
    | [_] => exact .inr ⟨.invalidArgument, _, rfl, fun s _ => rfl⟩
    | [_, _] => exact .inr ⟨.invalidArgument, _, rfl, fun s _ => rfl⟩
    | _ :: _ :: _ :: _ :: _ => exact .inr ⟨.invalidArgument, _, rfl, fun s _ => rfl⟩
  | addrSer a => exact .inl ⟨_, fun _ _ => rfl⟩
  | delimDec d => exact .inl ⟨_, fun _ _ => rfl⟩
  | delimEnc f => exact .inl ⟨_, fun _ _ => rfl⟩
  | frmEncode f =>
    rcases codec f (.bytes (frameBytes f)) with ⟨q, hq⟩ | ⟨g, n, hl, hg⟩
    · exact .inl ⟨q, fun s hs => by simp [exec, execFrmEncode, hq s hs]⟩
    · exact .inr ⟨g, n, hl, fun s hs => by simp [exec, execFrmEncode, hg s hs]⟩
  | frmCksum f =>
    rcases codec f (.byte (frameCks f)) with ⟨q, hq⟩ | ⟨g, n, hl, hg⟩
    · exact .inl ⟨q, fun s hs => by simp [exec, execFrmCksum, hq s hs]⟩
    · exact .inr ⟨g, n, hl, fun s hs => by simp [exec, execFrmCksum, hg s hs]⟩
  | frmValidate f rx =>
    rcases codec f (.bit (if frameCks f = rx then 1 else 0)) with ⟨q, hq⟩ | ⟨g, n, hl, hg⟩
    · exact .inl ⟨q, fun s hs => by rw [← hq s hs]; rfl⟩
    · exact .inr ⟨g, n, hl, fun s hs => by rw [← hg s hs]; rfl⟩
  | prsInit m => cases h
  | prsReset => cases h
  | prsFeed b => cases h
  | hipEncode hd =>
    by_cases hb : hd.byteCount.toNat < Config.hipHdrLen
    · exact .inr ⟨.headerByteCountTooSmall, hd.byteCount.toNat, rfl, fun s _ => by
        simp only [exec, execHipEncode, if_pos hb]⟩
    · exact .inl ⟨.bytes (headerBytes hd), fun s _ => by simp only [exec, execHipEncode, if_neg hb]⟩
  | hipDecode x => exact .inl ⟨_, fun _ _ => rfl⟩
  | paUnpack x => exact .inl ⟨_, fun _ _ => rfl⟩
  | paPack txt len => exact .inl ⟨.bytes (packString c txt len), fun s hs => by simp [exec, execPaPack, hs]⟩
  | strFit txt len => exact .inl ⟨.bytes (fitString c txt len), fun s hs => by simp [exec, execStrFit, hs]⟩
  | wireDelimiter d => exact .inl ⟨_, fun _ _ => rfl⟩
  | wireShortAddress b => exact .inl ⟨_, fun _ _ => rfl⟩
  | wireLongAddress b0 b1 b2 b3 b4 => exact .inl ⟨_, fun _ _ => rfl⟩
  | wireHartIpHeader x => exact .inl ⟨_, fun _ _ => rfl⟩
  | wirePackedGroup b0 b1 b2 => exact .inl ⟨_, fun _ _ => rfl⟩

end Sys2Proof.Machine
end

