-- ==== Sys2Proof/Laws/Run.lean ====
section
/-!
SUPPORT. Sequences of operations: the first operation and the rest, two sequences one after the other.
-/
namespace Sys2Proof.Machine

/-- A successful run of a sequence: it ends in `t` with the events `es`, every outcome `ok`. -/
def RunsTo (s : State) (is : List Instr) (t : State) (es : List Frame) : Prop :=
  runOps s is = .next { final := t, events := es, allOk := true }

theorem RunsTo.nil (s : State) : RunsTo s [] s [] := rfl

theorem RunsTo.cons {s t u : State} {i : Instr} {is : List Instr} {es : List Frame}
    (h : exec i s = .next t) (hok : outcomeOk t = true) (k : RunsTo t is u es) :
    RunsTo s (i :: is) u (t.event.toList ++ es) := by
  unfold RunsTo at k ⊢
  simp [runOps, h, hok, k]

/-- Two sequences one after the other: the events follow each other. -/
theorem RunsTo.append {s t u : State} {is js : List Instr} {es fs : List Frame}
    (h : RunsTo s is t es) (k : RunsTo t js u fs) : RunsTo s (is ++ js) u (es ++ fs) := by
  induction is generalizing s es with
  | nil =>
    unfold RunsTo at h
    simp only [runOps, Host.Outcome.next.injEq, OpsRun.mk.injEq] at h
    obtain ⟨rfl, rfl, -⟩ := h
    simpa using k
  | cons i is ih =>
    unfold RunsTo at h
    simp only [runOps] at h
    cases he : exec i s with
    | fault r => simp [he] at h
    | refused r => simp [he] at h
    | next v =>
      simp only [he] at h
      by_cases hok : outcomeOk v = true
      · simp only [hok, if_true] at h
        cases hr : runOps v is with
        | fault r => simp [hr] at h
        | refused r => simp [hr] at h
        | next r =>
          simp only [hr, Host.Outcome.next.injEq, OpsRun.mk.injEq] at h
          obtain ⟨rfl, rfl, hall⟩ := h
          have hrun : RunsTo v is r.final r.events := by
            unfold RunsTo
            rw [hr]
            cases r
            simp_all
          have := RunsTo.cons he hok (ih hrun)
          simpa [List.append_assoc] using this
      · simp [hok] at h

/-- One operation that ends `ok` without an event, then the rest. -/
theorem RunsTo.quiet {s t u : State} {i : Instr} {is : List Instr} {es : List Frame}
    (h : exec i s = .next t) (hr : t.result = some (.ok .none)) (he : t.event = none)
    (k : RunsTo t is u es) : RunsTo s (i :: is) u es := by
  have := RunsTo.cons h (by simp [outcomeOk, hr]) k
  simpa [he] using this

/-- A sequence stops at the first operation whose outcome is not `ok`. -/
theorem runOps_cons_stop {s t : State} {i : Instr} {is : List Instr}
    (h : exec i s = .next t) (hok : outcomeOk t = false) :
    runOps s (i :: is) = .next { final := t, events := t.event.toList, allOk := false } := by
  simp [runOps, h, hok]

/-- An operation whose outcome is `ok`, then the rest, whatever the rest does. -/
theorem runOps_cons_go {s t : State} {i : Instr} {is : List Instr} {r : OpsRun}
    (h : exec i s = .next t) (hok : outcomeOk t = true) (k : runOps t is = .next r) :
    runOps s (i :: is) = .next { r with events := t.event.toList ++ r.events } := by
  simp [runOps, h, hok, k]

theorem prsFeeds_cons (b : Byte) (bs : List Byte) : prsFeeds (b :: bs) = .prsFeed b :: prsFeeds bs := rfl

theorem prsFeeds_append (x y : List Byte) : prsFeeds (x ++ y) = prsFeeds x ++ prsFeeds y := by
  simp [prsFeeds]

/-- One byte fed `ok` without an event, then the rest. -/
theorem RunsTo.feed {s t u : State} {b : Byte} {bs : List Byte} {es : List Frame}
    (h : exec (.prsFeed b) s = .next (deliver .none t)) (k : RunsTo (deliver .none t) (prsFeeds bs) u es) :
    RunsTo s (prsFeeds (b :: bs)) u es := by
  rw [prsFeeds_cons]
  exact RunsTo.quiet h rfl rfl k

end Sys2Proof.Machine
end

