-- ==== Sys2Proof/Laws/Parser.lean ====
section
/-!
SUPPORT. PRS_FEED state by state, and one inversion lemma that says once what a PRS_FEED that answers a
next state has done.
-/
namespace Sys2Proof.Machine

section
variable {s : State}

theorem exec_feed_notInCommand (h : Running s) (hp : s.pstate = .notInCommand) (b : Byte) :
    exec (.prsFeed b) s = .next (deliver .none (feedNotInCommand b s)) := by
  simp only [exec, execPrsFeed_running h, hp]

theorem exec_feed_preamble (h : Running s) (hp : s.pstate = .preamble) (b : Byte) :
    exec (.prsFeed b) s = .next (deliver .none (feedPreamble b s)) := by
  simp only [exec, execPrsFeed_running h, hp]

theorem exec_feed_startDelimiter (h : Running s) (hp : s.pstate = .startDelimiter) (b : Byte) :
    exec (.prsFeed b) s = .next (deliver .none (feedStartDelimiter b s)) := by
  simp only [exec, execPrsFeed_running h, hp]

theorem exec_feed_address (h : Running s) (hp : s.pstate = .address) (b : Byte) :
    exec (.prsFeed b) s = feedAddress b s := by
  simp only [exec, execPrsFeed_running h, hp]

theorem exec_feed_command (h : Running s) (hp : s.pstate = .command) (b : Byte) :
    exec (.prsFeed b) s = .next (deliver .none (feedCommand b s)) := by
  simp only [exec, execPrsFeed_running h, hp]

theorem exec_feed_dataLength (h : Running s) (hp : s.pstate = .dataLength) (b : Byte) :
    exec (.prsFeed b) s = .next (feedDataLength b s) := by
  simp only [exec, execPrsFeed_running h, hp]

theorem exec_feed_data (h : Running s) (hp : s.pstate = .data) (b : Byte) :
    exec (.prsFeed b) s = feedData b s := by
  simp only [exec, execPrsFeed_running h, hp]

theorem exec_feed_checksum (h : Running s) (hp : s.pstate = .checksum) (b : Byte) :
    exec (.prsFeed b) s = .next (feedChecksum b s) := by
  simp only [exec, execPrsFeed_running h, hp]

/-- The latch or the missing mode turns PRS_FEED away. -/
theorem exec_feed_guarded {c : FaultCode} {info : Option Nat} (h : parserGuard s = some (c, info)) (b : Byte) :
    exec (.prsFeed b) s = .next (takeFault c info s) := by
  simp only [exec, execPrsFeed, h]

/-- Likewise PRS_RESET. -/
theorem exec_reset_guarded {c : FaultCode} {info : Option Nat} (h : parserGuard s = some (c, info)) :
    exec .prsReset s = .next (takeFault c info s) := by
  simp only [exec, execPrsReset, h]

theorem exec_reset_running (h : Running s) : exec .prsReset s = .next (deliver .none (rearm s)) := by
  simp only [exec, execPrsReset, parserGuard_running h]

theorem setAddrByte_none {r : AddrRegs} {i : BitVec 3} (b : Byte) (h : ¬i.toNat < 5) :
    setAddrByte r i b = none := by
  unfold setAddrByte
  split <;> first | omega | rfl

/-- The state after an address byte is stored (R169). -/
def afterAddressByte (q : AddrRegs) (s : State) : State :=
  { s with fAddr := q, aIdx := s.aIdx + 1,
           pstate := if (s.aIdx + 1).toNat = kindLen s.fKind then .command else .address }

/-- The state after a payload byte is stored (R173). -/
def afterPayloadByte (b : Byte) (s : State) : State :=
  advanceData { s with buf := bufWrite s.buf s.dataLen.toNat b, dataLen := s.dataLen + 1 }

/-- What a PRS_FEED has done that answers `t`. -/
inductive FeedStep (b : Byte) (s : State) : State → Prop where
  | guarded {c : FaultCode} {info : Option Nat} (g : parserGuard s = some (c, info)) :
      FeedStep b s (takeFault c info s)
  | search (h : Running s) (p : s.pstate = .notInCommand) :
      FeedStep b s (deliver .none (feedNotInCommand b s))
  | count (h : Running s) (p : s.pstate = .preamble) : FeedStep b s (deliver .none (feedPreamble b s))
  | delimiter (h : Running s) (p : s.pstate = .startDelimiter) :
      FeedStep b s (deliver .none (feedStartDelimiter b s))
  | address (h : Running s) (p : s.pstate = .address) (i : s.aIdx.toNat < 5) (q : AddrRegs)
      (e : setAddrByte s.fAddr s.aIdx b = some q) : FeedStep b s (deliver .none (afterAddressByte q s))
  | command (h : Running s) (p : s.pstate = .command) : FeedStep b s (deliver .none (feedCommand b s))
  | dataLength (h : Running s) (p : s.pstate = .dataLength) : FeedStep b s (feedDataLength b s)
  | rcByte (h : Running s) (p : s.pstate = .data) (r : isResponse s.fDelim = true) (i : s.dIdx.toNat < 2) :
      FeedStep b s (deliver .none (advanceData (storeRcByte b s)))
  | payload (h : Running s) (p : s.pstate = .data) (r : ¬(isResponse s.fDelim = true ∧ s.dIdx.toNat < 2))
      (i : s.dataLen.toNat < 255) : FeedStep b s (deliver .none (afterPayloadByte b s))
  | checksum (h : Running s) (p : s.pstate = .checksum) : FeedStep b s (feedChecksum b s)

/-- The inversion lemma of PRS_FEED. -/
theorem feedStep_of_exec {t : State} {b : Byte} (h : exec (.prsFeed b) s = .next t) : FeedStep b s t := by
  rcases parserGuard_cases s with ⟨-, g⟩ | ⟨-, -, g⟩ | ⟨hr, -⟩
  · rw [exec_feed_guarded g] at h; cases h; exact .guarded g
  · rw [exec_feed_guarded g] at h; cases h; exact .guarded g
  cases hp : s.pstate with
  | notInCommand => rw [exec_feed_notInCommand hr hp] at h; cases h; exact .search hr hp
  | preamble => rw [exec_feed_preamble hr hp] at h; cases h; exact .count hr hp
  | startDelimiter => rw [exec_feed_startDelimiter hr hp] at h; cases h; exact .delimiter hr hp
  | address =>
    rw [exec_feed_address hr hp] at h
    by_cases hi : s.aIdx.toNat < 5
    · obtain ⟨q, hq, e⟩ := feedAddress_next b hi
      rw [e] at h; cases h; exact .address hr hp hi q hq
    · simp only [feedAddress, setAddrByte_none b hi] at h; cases h
  | command => rw [exec_feed_command hr hp] at h; cases h; exact .command hr hp
  | dataLength => rw [exec_feed_dataLength hr hp] at h; cases h; exact .dataLength hr hp
  | data =>
    rw [exec_feed_data hr hp] at h
    rcases feedData_cases b s with ⟨r, i, e⟩ | ⟨r, i, e⟩ | ⟨-, -, e⟩ <;> rw [e] at h
    · cases h; exact .rcByte hr hp r i
    · cases h; exact .payload hr hp r i
    · cases h
  | checksum => rw [exec_feed_checksum hr hp] at h; cases h; exact .checksum hr hp

end

end Sys2Proof.Machine
end

