-- ==== Sys2Proof/Laws/Inv.lean ====
section
/-!
SUPPORT. The invariant `ParserInv` under the shared operations: it depends on the registers alone, not on
the ports or the pending requests, and a re-arm establishes it.
-/
namespace Sys2Proof.Machine

/-- The invariant does not read the ports. -/
theorem ParserInv.of_sameRegs {s t : State} (h : ParserInv s) (k : SameRegs s t) : ParserInv t := by
  obtain ⟨⟨k1, k2, k3, k4, k5, k6, -, k8, -, k10, k11, -, k13, k14, -, k16, -⟩, k18, k19⟩ := k
  constructor <;>
    simp only [k1, k2, k3, k4, k5, k6, k8, k10, k11, k13, k14, k16, k18, k19]
  exacts [h.width, h.buffer, h.counter, h.uninit, h.unlatched, h.latched, h.noPreamble, h.withPreamble,
    h.searching, h.counting, h.beforeAddress, h.inAddress, h.afterAddress, h.kind, h.beforeData, h.inData,
    h.inChecksum]

/-- Nor the host's pending requests. -/
theorem ParserInv.of_inputs {s : State} (h : ParserInv s) (rest : List PortInput) :
    ParserInv { s with inputs := rest } := by
  constructor
  exacts [h.width, h.buffer, h.counter, h.uninit, h.unlatched, h.latched, h.noPreamble, h.withPreamble,
    h.searching, h.counting, h.beforeAddress, h.inAddress, h.afterAddress, h.kind, h.beforeData, h.inData,
    h.inChecksum]

/-- A counter of at least two bits reaches 3, so a preamble of `MIN_PREAMBLE` can be counted. -/
theorem three_le_preMax {c : Config} (h : 2 ≤ c.preW) : 3 ≤ preMax c := by
  have : 2 ^ 2 ≤ 2 ^ c.preW := Nat.pow_le_pow_right (by omega) h
  simp only [preMax]
  omega

/-- A re-arm in a reading mode, with no fault latched, establishes it (R163). -/
theorem parserInv_rearm {s : State} (hw : 2 ≤ s.cfg.preW) (hb : Memory.wf s.buf = true) (hr : Running s)
    (hc : s.faultCode = 0) : ParserInv (rearm s) := by
  obtain ⟨hf, hm⟩ := hr
  have := three_le_preMax hw
  constructor <;> simp [hw, hb, hf, hc, hm, idleState]
  all_goals cases hmm : s.mode <;> simp_all

end Sys2Proof.Machine
end

