-- ==== Sys2Proof/Laws/PerInstr.lean ====
section
/-!
SUPPORT. The family of statements made per instruction: where the encoder puts an instruction. An
operation becomes a word with one of the sixteen select codes (spec/30_encoding.md R82), a wire-format row
a datum in its format (R112).
-/
namespace Sys2Proof.Laws.EncodedForm

/-- The encoding of `i` is an operation word with a select code of the table, or a wire datum. -/
def Statement (i : Instr) : Prop :=
  (∃ w o, encode i = .op w o ∧ opByte w ∈ selectCodes) ∨ (∃ d, encode i = .wire d)

/-- A word built from a select code of the table has one. -/
theorem of_code {i : Instr} {op imm : Byte} {o : OperandLanes} (h : encode i = .op (opWord op imm) o)
    (hm : op ∈ selectCodes) : Statement i := .inl ⟨_, _, h, by rw [opByte_opWord]; exact hm⟩

theorem addrMkShort (p : Byte) : Statement (.addrMkShort p) := of_code rfl (by decide)
theorem addrMkLong (mfr dtype : Byte) (id : List Byte) : Statement (.addrMkLong mfr dtype id) :=
  of_code rfl (by decide)
theorem addrSer (a : Address) : Statement (.addrSer a) := of_code rfl (by decide)
theorem delimDec (d : Byte) : Statement (.delimDec d) := of_code rfl (by decide)
theorem delimEnc (f : DelimFields) : Statement (.delimEnc f) := of_code rfl (by decide)
theorem frmEncode (f : Frame) : Statement (.frmEncode f) := of_code rfl (by decide)
theorem frmCksum (f : Frame) : Statement (.frmCksum f) := of_code rfl (by decide)
theorem frmValidate (f : Frame) (rx : Byte) : Statement (.frmValidate f rx) := of_code rfl (by decide)
theorem prsInit (m : Byte) : Statement (.prsInit m) := of_code rfl (by decide)
theorem prsReset : Statement .prsReset := of_code rfl (by decide)
theorem prsFeed (b : Byte) : Statement (.prsFeed b) := of_code rfl (by decide)
theorem hipEncode (h : HipHeader) : Statement (.hipEncode h) := of_code rfl (by decide)
theorem hipDecode (x : Vector Byte 8) : Statement (.hipDecode x) := of_code rfl (by decide)
theorem paUnpack (x : List Byte) : Statement (.paUnpack x) := of_code rfl (by decide)
theorem paPack (txt : List Byte) (len : Nat) : Statement (.paPack txt len) := of_code rfl (by decide)
theorem strFit (txt : List Byte) (len : Nat) : Statement (.strFit txt len) := of_code rfl (by decide)
theorem wireDelimiter (d : Byte) : Statement (.wireDelimiter d) := .inr ⟨_, rfl⟩
theorem wireShortAddress (b : Byte) : Statement (.wireShortAddress b) := .inr ⟨_, rfl⟩
theorem wireLongAddress (b0 b1 b2 b3 b4 : Byte) : Statement (.wireLongAddress b0 b1 b2 b3 b4) := .inr ⟨_, rfl⟩
theorem wireHartIpHeader (x : Vector Byte 8) : Statement (.wireHartIpHeader x) := .inr ⟨_, rfl⟩
theorem wirePackedGroup (b0 b1 b2 : Byte) : Statement (.wirePackedGroup b0 b1 b2) := .inr ⟨_, rfl⟩

end Sys2Proof.Laws.EncodedForm
end

