-- ==== Sys2Proof/Machine/Listing.lean ====
section
/-!
DEFINITION. The textual syntax of spec/30_encoding.md R110, as a printer to characters: one operation a
line, the mnemonic of R82, then its operands. It is the spec's way of writing test vectors down and is
read by no operation. Numbers are written in hexadecimal with 0x; lengths and preamble counts in decimal.
-/
namespace Sys2Proof.Machine

/-- The character of a hexadecimal digit, upper case. -/
def hexDigit (n : Nat) : Char := Char.ofNat (if n < 10 then 48 + n else 55 + n)

/-- `bb`: two hexadecimal digits. -/
def hexByte (b : Byte) : List Char := [hexDigit (b.toNat / 16), hexDigit (b.toNat % 16)]

/-- `hhhh`: four hexadecimal digits. -/
def hexWord (w : Word16) : List Char := hexByte (hi8 w) ++ hexByte (lo8 w)

/-- `0xbb`. -/
def hexNumber (b : Byte) : List Char := ['0', 'x'] ++ hexByte b

/-- A decimal number. -/
def decimal (n : Nat) : List Char := Nat.toDigits 10 n

/-- Words with one separator between two. -/
def joinChars (sep : List Char) : List (List Char) → List Char
  | [] => []
  | [x] => x
  | x :: y :: rest => x ++ sep ++ joinChars sep (y :: rest)

/-- Words separated by spaces. -/
def spaced (ws : List (List Char)) : List Char := joinChars [' '] ws

/-- `[b0 b1 ...]`, `[]` when empty. -/
def listSeq (x : List Byte) : List Char := ['['] ++ spaced (x.map hexByte) ++ [']']

/-- A record: the fields between braces (the brace characters are 123 and 125). -/
def listRecord (fields : List (List Char)) : List Char :=
  [Char.ofNat 123] ++ spaced fields ++ [Char.ofNat 125]

/-- `name=value`. -/
def listField (name value : List Char) : List Char := name ++ ['='] ++ value

/-- `S:bb` or `L:bb.bb.bb.bb.bb`. -/
def listAddress : Address → List Char
  | .short b => ['S', ':'] ++ hexByte b
  | .long b0 b1 b2 b3 b4 => ['L', ':'] ++ joinChars ['.'] ([b0, b1, b2, b3, b4].map hexByte)

/-- A frame operand; `cks` is never written in an operand. -/
def listFrame (f : Frame) : List Char :=
  listRecord [listField ['p', 'r', 'e'] (decimal f.pre), listField ['d', 'e', 'l', 'i', 'm'] (hexByte f.delim),
    listField ['a', 'd', 'd', 'r'] (listAddress f.addr), listField ['c', 'm', 'd'] (hexByte f.cmd),
    listField ['r', 'c'] (listSeq f.rc), listField ['d', 'a', 't', 'a'] (listSeq f.data)]

/-- A delivered frame: the operand's fields and `cks`. -/
def listEventFrame (f : Frame) : List Char :=
  listRecord [listField ['p', 'r', 'e'] (decimal f.pre), listField ['d', 'e', 'l', 'i', 'm'] (hexByte f.delim),
    listField ['a', 'd', 'd', 'r'] (listAddress f.addr), listField ['c', 'm', 'd'] (hexByte f.cmd),
    listField ['r', 'c'] (listSeq f.rc), listField ['d', 'a', 't', 'a'] (listSeq f.data),
    listField ['c', 'k', 's'] (hexByte f.cks)]

/-- `DelimFields`. -/
def listDelimFields (f : DelimFields) : List Char :=
  listRecord [listField ['a'] (decimal f.addrType.toNat), listField ['e', 'x', 'p'] (decimal f.exp.toNat),
    listField ['p', 'h', 'y', 's'] (decimal f.phys.toNat), listField ['f', 't'] (decimal f.ftype.toNat)]

/-- `HipHeader`. -/
def listHeader (h : HipHeader) : List Char :=
  listRecord [listField ['v', 'e', 'r'] (hexByte h.version), listField ['t', 'y', 'p', 'e'] (hexByte h.msgType),
    listField ['i', 'd'] (hexByte h.msgId), listField ['s', 't', 'a', 't', 'u', 's'] (hexByte h.status),
    listField ['s', 'e', 'q'] (hexWord h.seq), listField ['c', 'o', 'u', 'n', 't'] (hexWord h.byteCount)]

/-- The row's mnemonic and the operands of an instruction. -/
def listParts : Instr → String × List (List Char)
  | .addrMkShort p => ("ADDR_MK_SHORT", [hexNumber p])
  | .addrMkLong mfr dtype id => ("ADDR_MK_LONG", [hexNumber mfr, hexNumber dtype, listSeq id])
  | .addrSer a => ("ADDR_SER", [listAddress a])
  | .delimDec d => ("DELIM_DEC", [hexNumber d])
  | .delimEnc f => ("DELIM_ENC", [listDelimFields f])
  | .frmEncode f => ("FRM_ENCODE", [listFrame f])
  | .frmCksum f => ("FRM_CKSUM", [listFrame f])
  | .frmValidate f rx => ("FRM_VALIDATE", [listFrame f, hexNumber rx])
  | .prsInit m => ("PRS_INIT", [decimal m.toNat])
  | .prsReset => ("PRS_RESET", [])
  | .prsFeed b => ("PRS_FEED", [hexNumber b])
  | .hipEncode h => ("HIP_ENCODE", [listHeader h])
  | .hipDecode x => ("HIP_DECODE", [listSeq x.toList])
  | .paUnpack x => ("PA_UNPACK", [listSeq x])
  | .paPack txt len => ("PA_PACK", [listSeq txt, decimal len])
  | .strFit txt len => ("STR_FIT", [listSeq txt, decimal len])
  | .wireDelimiter d => ("WIRE_DELIMITER", [listSeq [d]])
  | .wireShortAddress b => ("WIRE_SHORT_ADDRESS", [listSeq [b]])
  | .wireLongAddress b0 b1 b2 b3 b4 => ("WIRE_LONG_ADDRESS", [listSeq [b0, b1, b2, b3, b4]])
  | .wireHartIpHeader x => ("WIRE_HARTIP_HEADER", [listSeq x.toList])
  | .wirePackedGroup b0 b1 b2 => ("WIRE_PACKED_GROUP", [listSeq [b0, b1, b2]])

/-- One operation as a line: the mnemonic, then the operands separated by spaces. -/
def listInstr (i : Instr) : List Char := spaced ((listParts i).1.toList :: (listParts i).2)

/-- The event as it stands after `!` in a listing. -/
def listEvent (f : Frame) : List Char :=
  ['!', ' ', 'C', 'o', 'm', 'p', 'l', 'e', 't', 'e'] ++ listEventFrame f

end Sys2Proof.Machine
end

