-- ==== Sys2Proof/Tests/Slice0.lean ====
section
/-!
SUPPORT. Tests: ill-formed operands refused, words written out from the spec's encodings, one step of each
instruction with a value from spec/95_test_vectors.md, and for each statement with hypotheses a witness
that meets them.
-/
namespace Sys2Proof.Tests

open Sys2Proof.Machine

/-! ### Helpers -/

/-- The outcome on the result port, where there is a next state. -/
def outcomeOf (o : Host.Outcome State Fault Refusal) : Option OpOutcome :=
  match o with
  | .next t => t.result
  | .fault _ => none
  | .refused _ => none

/-- The frame on the event port. -/
def eventOf (o : Host.Outcome State Fault Refusal) : Option Frame :=
  match o with
  | .next t => t.event
  | .fault _ => none
  | .refused _ => none

/-- Why there is no next state. -/
def refusalOf (o : Host.Outcome State Fault Refusal) : Option Refusal :=
  match o with
  | .next _ => none
  | .fault _ => none
  | .refused r => some r

/-- One thing about the next state. -/
def viewOf {α : Type} (f : State → α) (o : Host.Outcome State Fault Refusal) : Option α :=
  match o with
  | .next t => some (f t)
  | .fault _ => none
  | .refused _ => none

/-- A parser armed in a reading mode (R163). -/
def idleIn (m : Mode) : State := rearm { State.reset with mode := m }

/-- A parser in a state, in `NoPreamble` mode. -/
def waiting (p : PState) : State := { idleIn .noPreamble with pstate := p }

/-- A parser that counts a run of `n` bytes 0xFF, in `ParsePreamble` mode. -/
def counting (n : Nat) : State := { idleIn .parsePreamble with pstate := .preamble, preCnt := n }

/-- After `06 80 00` in `NoPreamble` mode (spec/95 2.4): the length byte of a response is next. -/
def awaitingLength : State :=
  { waiting .dataLength with fDelim := 0x06, fAddr := ⟨0x80, 0, 0, 0, 0⟩, aIdx := 1 }

/-- After `06 80 00 01`: the latch is set (spec/95 2.4, P4). -/
def latched : State := { awaitingLength with fault := true, faultCode := 5 }

/-- After `02 80 06 01 05` (spec/95 2.4): the checksum byte is next. -/
def awaitingChecksum : State :=
  { waiting .checksum with
    fDelim := 0x02, fAddr := ⟨0x80, 0, 0, 0, 0⟩, aIdx := 1, fCmd := 0x06, fLen := 1, dIdx := 1,
    buf := [(0, 0x05)], dataLen := 1 }

/-- In the data phase of a response of `n` announced bytes, `i` of them received. -/
def inResponse (n i : Byte) (rcLen : Fin 3) (dataLen : Byte) : State :=
  { waiting .data with fDelim := 0x06, aIdx := 1, fLen := n, dIdx := i, rcLen := rcLen, dataLen := dataLen }

/-- In the data phase of a request. -/
def inRequest (n i : Byte) : State :=
  { waiting .data with fDelim := 0x02, aIdx := 1, fLen := n, dIdx := i, dataLen := i }

/-- The addresses S0 and LA of spec/95. -/
def s0 : Address := .short 0x80
def la : Address := .long 0xA6 0x06 0xBC 0x61 0x4E

/-- A frame operand; `cks` is not consulted in an operand. -/
def operandFrame (pre : Nat) (delim : Byte) (addr : Address) (cmd : Byte) (rc data : List Byte) : Frame :=
  { pre := pre, delim := delim, addr := addr, cmd := cmd, rc := rc, data := data, cks := 0 }

/-- Frames of spec/95 2.2. -/
def f3 : Frame := operandFrame 5 0x82 la 0x0D [] []
def f5 : Frame := operandFrame 0 0x06 s0 0x00 [] []
def f7 : Frame := operandFrame 3 0x86 la 0x01 [0x00, 0x40] [0x20, 0x41, 0xC8, 0x00, 0x00]
def f10 : Frame := operandFrame 2 0x06 s0 0x00 [0x88, 0x00] []
def f11 : Frame := operandFrame 2 0x01 s0 0x01 [] [0x00, 0x40, 0x20]

/-- A frame with a payload of `n` bytes 0x00 (spec/95 2.2, the faults). -/
def padded (rc : List Byte) (n : Nat) : Frame := operandFrame 0 6 s0 0 rc (List.replicate n 0)

theorem padded_length (rc : List Byte) (n : Nat) : (padded rc n).data.length = n := List.length_replicate

/-- The block with the given words and zero operands pending. -/
def asked (s : State) (words : List Word16) : State :=
  { s with inputs := words.map fun w => .op w zeroLanes }

/-- The block with one frame operation pending. -/
def askedFrame (w : Word16) (f : Frame) : State :=
  { State.reset with inputs := [.op w { zeroLanes with frame := f }] }

/-! ### Operands outside their types (93 U20): one ill-formed term for each check of `wellFormed` -/

theorem test_illformed_frmEncode : wellFormed Config.default (.frmEncode (operandFrame 256 2 s0 0 [] [])) = false := by
  decide
theorem test_illformed_frmCksum : wellFormed Config.default (.frmCksum (operandFrame 256 2 s0 0 [] [])) = false := by
  decide
theorem test_illformed_frmValidate :
    wellFormed Config.default (.frmValidate (operandFrame 256 2 s0 0 [] []) 0) = false := by decide
theorem test_wellformed_at_255 : wellFormed Config.default (.frmEncode (operandFrame 255 2 s0 0 [] [])) = true := by
  decide
theorem test_step_refuses_illformed :
    refusalOf (step (askedFrame 0x1000 (operandFrame 256 2 s0 0 [] []))) = some .operandNotExpressible := by decide

/-! ### Decoding: words written out from R81, R82 and R112 -/

theorem test_word_addrMkShort : decodeTableWord 16 0b0000000000000101 = some (.addrMkShort 5) := by decide
theorem test_word_addrMkLong : decodeTableWord 16 0b0000000100000000 = some (.addrMkLong 0 0 []) := by decide
theorem test_word_addrSer : decodeTableWord 16 0b0000001000000000 = some (.addrSer (.short 0)) := by decide
theorem test_word_delimDec : decodeTableWord 16 0b0000100010000110 = some (.delimDec 0x86) := by decide
theorem test_word_delimEnc : decodeTableWord 16 0b0000100100000000 = some (.delimEnc ⟨0, 0, 0, 0⟩) := by decide
theorem test_word_frmEncode :
    decodeTableWord 16 0b0001000011111111 = some (.frmEncode (operandFrame 0 0 (.short 0) 0 [] [])) := by decide
theorem test_word_frmCksum :
    decodeTableWord 16 0b0001000100000000 = some (.frmCksum (operandFrame 0 0 (.short 0) 0 [] [])) := by decide
theorem test_word_frmValidate :
    decodeTableWord 16 0b0001001011001101 = some (.frmValidate (operandFrame 0 0 (.short 0) 0 [] []) 0xCD) := by
  decide
theorem test_word_prsInit : decodeTableWord 16 0b0010000000000001 = some (.prsInit 1) := by decide
theorem test_word_prsReset : decodeTableWord 16 0b0010000110100111 = some .prsReset := by decide
theorem test_word_prsFeed : decodeTableWord 16 0b0010001011111111 = some (.prsFeed 0xFF) := by decide
theorem test_word_hipEncode : decodeTableWord 16 0b0011000000000000 = some (.hipEncode ⟨0, 0, 0, 0, 0, 0⟩) := by
  decide
theorem test_word_hipDecode :
    decodeTableWord 16 0b0011000100000000 = some (.hipDecode #v[0, 0, 0, 0, 0, 0, 0, 0]) := by decide
theorem test_word_paUnpack : decodeTableWord 16 0b0100000000000000 = some (.paUnpack []) := by decide
theorem test_word_paPack : decodeTableWord 16 0b0100000100000000 = some (.paPack [] 0) := by decide
theorem test_word_strFit : decodeTableWord 16 0b0100001000000000 = some (.strFit [] 0) := by decide
theorem test_word_wireDelimiter : decodeTableWord 8 0b10000110 = some (.wireDelimiter 0x86) := by decide
theorem test_word_wireLongAddress :
    decodeTableWord 40 0xA606BC614E = some (.wireLongAddress 0xA6 0x06 0xBC 0x61 0x4E) := by decide
theorem test_word_wireHartIpHeader : decodeTableWord 64 0x010100000002000D =
    some (.wireHartIpHeader #v[0x01, 0x01, 0x00, 0x00, 0x00, 0x02, 0x00, 0x0D]) := by decide
theorem test_word_wirePackedGroup : decodeTableWord 24 0x201494 = some (.wirePackedGroup 0x20 0x14 0x94) := by decide
/-- An 8-bit datum cannot be told from a delimiter by its bits (R126 (e)); tagged, it is an address byte. -/
theorem test_datum_wireShortAddress : decode (.wire (.shortAddress 0x80)) = .instr (.wireShortAddress 0x80) := by
  decide
/-- The illegal words of spec/95 2.7. -/
theorem test_illegal_words : ([0x0300, 0x0A00, 0x1300, 0x2300, 0x3200, 0x4300, 0x5000, 0xFF22] : List Nat).all
    (fun w => decodeTableWord 16 w == none) = true := by decide
/-- The encoder writes the words of spec/95 2.7. -/
theorem test_encode_prsFeed : encode (.prsFeed 0xFF) = .op 0x22FF zeroLanes := by decide
theorem test_encode_delimDec : encode (.delimDec 0x86) = .op 0x0886 zeroLanes := by decide

/-! ### One step of each instruction (spec/95 2.1) -/

theorem test_addrMkShort_15 : outcomeOf (exec (.addrMkShort 15) State.reset) = some (.ok (.address (.short 0x8F))) := by
  decide
theorem test_addrMkShort_16 :
    outcomeOf (exec (.addrMkShort 16) State.reset) = some (.fault .invalidArgument (some 16)) := by decide
theorem test_addrMkLong : outcomeOf (exec (.addrMkLong 0x26 0x06 [0xBC, 0x61, 0x4E]) State.reset) =
    some (.ok (.address la)) := by decide
theorem test_addrMkLong_four : outcomeOf (exec (.addrMkLong 0x26 0x06 [0xBC, 0x61, 0x4E, 0]) State.reset) =
    some (.fault .invalidArgument (some 4)) := by decide
theorem test_addrSer_short : outcomeOf (exec (.addrSer (.short 0x05)) State.reset) = some (.ok (.bytes [0x05])) := by
  decide
theorem test_addrSer_long : outcomeOf (exec (.addrSer (.long 0x26 0x06 0xBC 0x61 0x4E)) State.reset) =
    some (.ok (.bytes [0x26, 0x06, 0xBC, 0x61, 0x4E])) := by decide
theorem test_delimDec_cd : outcomeOf (exec (.delimDec 0xCD) State.reset) =
    some (.ok (.fields { addrType := 1, exp := 2, phys := 1, ftype := 5 })) := by decide
theorem test_delimDec_66 : outcomeOf (exec (.delimDec 0x66) State.reset) =
    some (.ok (.fields { addrType := 0, exp := 3, phys := 0, ftype := 6 })) := by decide
theorem test_delimEnc_cd : outcomeOf (exec (.delimEnc { addrType := 1, exp := 2, phys := 1, ftype := 5 }) State.reset) =
    some (.ok (.byte 0xCD)) := by decide

/-! ### spec/95 2.2 -/

theorem test_frmEncode_f7 : outcomeOf (exec (.frmEncode f7) State.reset) = some (.ok (.bytes
    [0xFF, 0xFF, 0xFF, 0x86, 0xA6, 0x06, 0xBC, 0x61, 0x4E, 0x01, 0x07, 0x00, 0x40, 0x20, 0x41, 0xC8, 0x00, 0x00,
      0x5A])) := by decide
theorem test_frmEncode_order : outcomeOf (exec (.frmEncode (padded [0] 300))
    State.reset) = some (.fault .encodeBadRcLength (some 1)) := by decide
theorem test_frmCksum_f3 : outcomeOf (exec (.frmCksum f3) State.reset) = some (.ok (.byte 0xBC)) := by decide
theorem test_frmCksum_overflow : outcomeOf (exec (.frmCksum (padded [0, 0] 254)) State.reset) =
    some (.fault .encodeLengthOverflow (some 256)) := by
  simp only [exec, execFrmCksum, codecOp, encodeFault, frameDataLen, padded_length]
  rfl
theorem test_frmValidate_86 : outcomeOf (exec (.frmValidate f5 0x86) State.reset) = some (.ok (.bit 1)) := by decide
theorem test_frmValidate_87 : outcomeOf (exec (.frmValidate f5 0x87) State.reset) = some (.ok (.bit 0)) := by decide

/-! ### spec/95 2.4, P1, P4 -/

theorem test_prsInit_clears : viewOf (fun t => (t.mode, t.fault, t.faultCode, t.pstate, t.aIdx))
    (exec (.prsInit 1) latched) = some (.parsePreamble, false, 0, .notInCommand, 0) := by decide
theorem test_prsInit_3 : viewOf (fun t => (t.result, t.mode, t.fault)) (exec (.prsInit 3) latched) =
    some (some (.fault .invalidArgument (some 3)), .noPreamble, true) := by decide
theorem test_prsReset_latched :
    outcomeOf (exec .prsReset latched) = some (.fault .parserFaulted (some 5)) := by decide
theorem test_prsReset_rearms : viewOf (fun t => (t.pstate, t.preCnt)) (exec .prsReset (counting 2)) =
    some (.notInCommand, 0) := by decide
theorem test_prsFeed_short_length : viewOf (fun t => (t.fault, t.faultCode, t.pstate)) (exec (.prsFeed 0x01) awaitingLength) =
    some (true, 5, .dataLength) := by decide
theorem test_prsFeed_checksum : eventOf (exec (.prsFeed 0x80) awaitingChecksum) = some
    { pre := 0, delim := 0x02, addr := s0, cmd := 0x06, rc := [], data := [0x05], cks := 0x80 } := by decide

/-! ### spec/95 2.5 -/

theorem test_hipEncode : outcomeOf (exec (.hipEncode
    { version := 0x01, msgType := 0x0F, msgId := 0x80, status := 0x02, seq := 0x0100, byteCount := 0x0108 })
    State.reset) = some (.ok (.bytes [0x01, 0x0F, 0x80, 0x02, 0x01, 0x00, 0x01, 0x08])) := by decide
theorem test_hipEncode_7 : outcomeOf (exec (.hipEncode
    { version := 1, msgType := 1, msgId := 0, status := 0, seq := 2, byteCount := 7 }) State.reset) =
    some (.fault .headerByteCountTooSmall (some 7)) := by decide
theorem test_hipDecode : outcomeOf (exec (.hipDecode #v[0x01, 0x00, 0x03, 0x00, 0x00, 0x07, 0x00, 0x11]) State.reset) =
    some (.ok (.headerDecoded
      { version := 1, msgType := 0, msgId := 3, status := 0, seq := 0x0007, byteCount := 0x0011 } 1 9)) := by decide
theorem test_hipDecode_7 : outcomeOf (exec (.hipDecode #v[0x01, 0x00, 0x02, 0x00, 0x00, 0x00, 0x00, 0x07]) State.reset) =
    some (.ok (.headerDecoded
      { version := 1, msgType := 0, msgId := 2, status := 0, seq := 0, byteCount := 7 } 0 0)) := by decide

/-! ### spec/95 2.6 -/

/-- "D#QV". -/
theorem test_paUnpack : outcomeOf (exec (.paUnpack [0x12, 0x34, 0x56]) State.reset) =
    some (.ok (.bytes [0x44, 0x23, 0x51, 0x56])) := by decide
/-- "TAG1", the trailing bytes ignored. -/
theorem test_paUnpack_rest : outcomeOf (exec (.paUnpack [0x50, 0x11, 0xF1, 0x82, 0x08]) State.reset) =
    some (.ok (.bytes [0x54, 0x41, 0x47, 0x31])) := by decide
/-- "TAG12345" with the terminator reserved. -/
theorem test_paPack : outcomeOf (exec (.paPack [0x54, 0x41, 0x47, 0x31, 0x32, 0x33, 0x34, 0x35] 6) State.reset) =
    some (.ok (.bytes [0x50, 0x11, 0xF1, 0xCB, 0x3D, 0x00])) := by decide
/-- "HART" in five bytes. -/
theorem test_paPack_fill : outcomeOf (exec (.paPack [0x48, 0x41, 0x52, 0x54] 5) State.reset) =
    some (.ok (.bytes [0x20, 0x14, 0x80, 0x00, 0x00])) := by decide
theorem test_strFit : outcomeOf (exec (.strFit [0x41, 0x42] 2) State.reset) = some (.ok (.bytes [0x41, 0x00])) := by
  decide
theorem test_strFit_zero : outcomeOf (exec (.strFit [0x41, 0x42] 0) State.reset) = some (.ok (.bytes [])) := by decide

/-! ### The wire-format rows, on the data of spec/95 2.1, 2.5, 2.6 -/

theorem test_wireDelimiter : outcomeOf (exec (.wireDelimiter 0x1A) State.reset) =
    some (.ok (.fields { addrType := 0, exp := 0, phys := 3, ftype := 2 })) := by decide
theorem test_wireShortAddress : outcomeOf (exec (.wireShortAddress 0x05) State.reset) =
    some (.ok (.address (.short 0x05))) := by decide
theorem test_wireLongAddress : outcomeOf (exec (.wireLongAddress 0x26 0x06 0xBC 0x61 0x4E) State.reset) =
    some (.ok (.address (.long 0x26 0x06 0xBC 0x61 0x4E))) := by decide
theorem test_wireHartIpHeader :
    outcomeOf (exec (.wireHartIpHeader #v[0x01, 0x00, 0x02, 0x00, 0x12, 0x34, 0x00, 0x07]) State.reset) =
    some (.ok (.header
      { version := 1, msgType := 0, msgId := 2, status := 0, seq := 0x1234, byteCount := 7 })) := by decide
/-- "HART". -/
theorem test_wirePackedGroup : outcomeOf (exec (.wirePackedGroup 0x20 0x14 0x94) State.reset) =
    some (.ok (.bytes [0x48, 0x41, 0x52, 0x54])) := by decide

/-! ### The port, reset and the listing -/

/-- P1, step 1: a byte before the first PRS_INIT. -/
theorem test_step_uninit : outcomeOf (step (asked State.reset [0x22FF])) = some (.fault .parserUninit none) := by decide
theorem test_step_illegal : outcomeOf (step (asked State.reset [0x4300])) = some (.fault .illegalOp (some 0x43)) := by
  decide
theorem test_withFetchWord_runs :
    outcomeOf (step (State.reset.withFetchWord 16 0x000F)) = some (.ok (.address (.short 0x8F))) := by decide
theorem test_reset_input : viewOf (fun t => (t.mode, t.fault)) (step { latched with inputs := [.hardwareReset] }) =
    some (.uninit, false) := by decide
theorem test_listing : listInstr (.addrSer la) =
    "ADDR_SER L:A6.06.BC.61.4E".toList := by decide

/-! ### Witnesses: for each statement with hypotheses, operands that meet them -/

theorem witness_IgnoredImmediateHasNoEffect :
    opByte 0x21A7 = opByte 0x2100 ∧ opByte 0x21A7 ∉ ([0x00, 0x08, 0x12, 0x20, 0x22] : List Byte) := by decide
theorem witness_IllegalOpFaults : (asked State.reset [0x03FF]).inputs = .op 0x03FF zeroLanes :: [] ∧
    opByte 0x03FF ∉ selectCodes ∧ opByte 0x42FF ∈ selectCodes ∧ opByte 0x43FF ∉ selectCodes := by decide
theorem witness_StepRunsDecoded : (askedFrame 0x10FF (operandFrame 255 2 s0 0 [] [])).inputs =
      .op 0x10FF { zeroLanes with frame := operandFrame 255 2 s0 0 [] [] } :: [] ∧
    decode (.op 0x10FF { zeroLanes with frame := operandFrame 255 2 s0 0 [] [] }) =
      .instr (.frmEncode (operandFrame 255 2 s0 0 [] [])) ∧
    wellFormed (askedFrame 0x10FF f3).cfg (.frmEncode (operandFrame 255 2 s0 0 [] [])) = true := by decide
theorem witness_InexpressibleOperandRefused :
    decode (.op 0x1100 { zeroLanes with frame := operandFrame 256 2 s0 0 [] [] }) =
      .instr (.frmCksum (operandFrame 256 2 s0 0 [] [])) ∧
    2 ^ (askedFrame 0x1100 (operandFrame 256 2 s0 0 [] [])).cfg.preW ≤ (operandFrame 256 2 s0 0 [] []).pre ∧
    refusalOf (step (askedFrame 0x1100 (operandFrame 256 2 s0 0 [] []))) = some .operandNotExpressible ∧
    refusalOf (step (askedFrame 0x1100 (operandFrame 255 2 s0 0 [] []))) = none := by decide
theorem witness_HardwareResetStep :
    ({ latched with inputs := [.hardwareReset] } : State).inputs = .hardwareReset :: [] ∧
    ({ idleIn .parsePreamble with inputs := [.hardwareReset] } : State).inputs = .hardwareReset :: [] ∧
    latched.cfg = (idleIn .parsePreamble).cfg ∧ State.reset.inputs = [] := by decide

/-- The invariant at a parser that waits for a length byte, at a latched one and in the data phase. -/
theorem inv_idle (m : Mode) (h : m ≠ .uninit) : ParserInv (idleIn m) := by
  cases m
  · exact absurd rfl h
  all_goals constructor <;> decide
theorem inv_counting : ParserInv (counting 255) := by constructor <;> decide
theorem inv_awaitingLength : ParserInv awaitingLength := by constructor <;> decide
theorem inv_latched : ParserInv latched := by constructor <;> decide
theorem inv_inResponse : ParserInv (inResponse 255 254 2 252) := by constructor <;> decide
theorem inv_awaitingChecksum : ParserInv awaitingChecksum := by constructor <;> decide
theorem inv_reset : ParserInv State.reset := by constructor <;> decide

theorem witness_ResetMeetsParserInv : 2 ≤ ({ Config.default with preW := 2 } : Config).preW := by decide
/-- A step from each kind of state of the invariant: `EveryOperationEnds` has the same premise. -/
theorem witness_StepKeepsParserInv : ParserInv (asked awaitingLength [0x2201]) ∧
    viewOf (fun t => t.fault) (step (asked awaitingLength [0x2201])) = some true := by
  refine ⟨?_, by decide⟩
  constructor <;> decide
theorem witness_BoundaryInvAlongRuns :
    viewOf (fun t => (t.fault, t.mode)) (runSteps 1 { State.resetWith Config.default with
      inputs := [.op 0x2001 zeroLanes] }) = some (false, .parsePreamble) := by decide
theorem witness_EveryOperationEnds : ParserInv latched ∧ ParserInv (inResponse 255 254 2 252) :=
  ⟨inv_latched, inv_inResponse⟩

theorem witness_AddrMkShortResult : (15 : Byte).toNat ≤ 15 ∧ 15 < (16 : Byte).toNat ∧
    shortAddrMask State.reset.cfg = 0x80 := by decide
theorem witness_AddrMkLongResult : ∃ i0 i1 i2 : Byte, ([0xBC, 0x61, 0x4E] : List Byte) = [i0, i1, i2] :=
  ⟨0xBC, 0x61, 0x4E, rfl⟩
theorem witness_AddrMkLongResult_length : ([0xBC, 0x61] : List Byte).length ≠ 3 ∧ (0x7F : Byte).toNat < 128 ∧
    ¬(0x80 : Byte).toNat < 128 := by decide
theorem witness_AddrSerResult : s0 = .short 0x80 ∧ la = .long 0xA6 0x06 0xBC 0x61 0x4E := by decide
theorem witness_DelimiterViewRoundTrip :
    outcomeOf (exec (.delimDec 0xFF) State.reset) =
      some (.ok (.fields { addrType := 1, exp := 3, phys := 3, ftype := 7 })) ∧
    outcomeOf (exec (.delimEnc { addrType := 1, exp := 3, phys := 3, ftype := 7 }) State.reset) =
      some (.ok (.byte 0xFF)) := by decide

/-- The three clauses of FRM_ENCODE, FRM_CKSUM and FRM_VALIDATE, at their bounds. -/
theorem witness_FrmEncodeResult_rc : (operandFrame 0 6 s0 0 [1] []).rc.length ≠ 0 ∧
    (operandFrame 0 6 s0 0 [1] []).rc.length ≠ 2 ∧ (operandFrame 0 6 s0 0 [1, 2, 3] []).rc.length ≠ 2 := by decide
theorem witness_FrmEncodeResult_overflow : (padded [0, 0] 254).rc.length = 2 ∧
    255 < (padded [0, 0] 254).rc.length + (padded [0, 0] 254).data.length := by
  rw [padded_length]; decide
theorem witness_FrmEncodeResult_ok : (padded [0, 0] 253).rc.length = 2 ∧
    (padded [0, 0] 253).rc.length + (padded [0, 0] 253).data.length ≤ 255 := by
  rw [padded_length]; decide
theorem witness_FrmCksumResult : (padded [] 255).rc.length = 0 ∧
    (padded [] 255).rc.length + (padded [] 255).data.length ≤ 255 := by
  rw [padded_length]; decide
theorem witness_FrmValidateResult : (padded [] 256).rc.length = 0 ∧
    255 < (padded [] 256).rc.length + (padded [] 256).data.length := by
  rw [padded_length]; decide
theorem witness_ChecksumRoundTrip : encodable f10 = true ∧
    outcomeOf (exec (.frmEncode f10) State.reset) =
      some (.ok (.bytes [0xFF, 0xFF, 0x06, 0x80, 0x00, 0x02, 0x88, 0x00, 0x0C])) := by decide
theorem witness_SingleBitFlipDetected : encodable f7 = true ∧ 7 < 8 ∧ (frameBody f7)[0]? = some 0x86 ∧
    f7.data[4]? = some 0x00 := by decide
theorem witness_EncodedLength : encodable f3 = true ∧ frameExpressible State.reset.cfg f3 = true ∧
    State.reset.cfg.preW = 8 ∧ outcomeOf (exec (.frmEncode f3) State.reset) = some (.ok (.bytes
      [0xFF, 0xFF, 0xFF, 0xFF, 0xFF, 0x82, 0xA6, 0x06, 0xBC, 0x61, 0x4E, 0x0D, 0x00, 0xBC])) := by decide

theorem witness_PrsInitResult : ((1 : Byte) = 1 ∨ (1 : Byte) = 2) ∧ (3 : Byte) ≠ 1 ∧ (3 : Byte) ≠ 2 ∧
    (0 : Byte) ≠ 1 ∧ (0 : Byte) ≠ 2 ∧ latched.fault = true ∧
    viewOf (fun t => t.fault) (exec (.prsInit 2) latched) = some false := by decide
theorem witness_PrsResetResult : latched.fault = true ∧ State.reset.fault = false ∧ State.reset.mode = .uninit ∧
    (counting 2).fault = false ∧ (counting 2).mode ≠ .uninit := by decide
theorem witness_ParserGuards : latched.fault = true ∧ State.reset.fault = false ∧ State.reset.mode = .uninit ∧
    outcomeOf (exec .prsReset State.reset) = some (.fault .parserUninit none) := by decide

theorem running_idle (m : Mode) (h : m ≠ .uninit) : Running (idleIn m) := ⟨rfl, h⟩
theorem running_waiting (p : PState) : Running (waiting p) := ⟨rfl, Mode.noConfusion⟩

theorem witness_FeedNotInCommand : Running (idleIn .parsePreamble) ∧
    (idleIn .parsePreamble).pstate = .notInCommand ∧ (0xFE : Byte) ≠ 0xFF ∧ (0xFF : Byte) ∉ ([0x00, 0xFE] : List Byte) ∧
    ParserInv (idleIn .parsePreamble) :=
  ⟨running_idle _ (by decide), rfl, by decide, by decide, inv_idle _ (by decide)⟩
theorem witness_FeedPreamble : Running (counting 1) ∧ Running (counting 2) ∧ (counting 1).pstate = .preamble ∧
    (counting 2).pstate = .preamble ∧ (0xFE : Byte) ≠ 0xFF ∧ 2 ≤ (counting 2).preCnt ∧ (counting 1).preCnt < 2 := by
  refine ⟨⟨rfl, ?_⟩, ⟨rfl, ?_⟩, rfl, rfl, ?_, ?_, ?_⟩ <;> decide
/-- At the top of the counter (spec/95 2.4, 300 bytes 0xFF). -/
theorem witness_FeedPreamble_top : viewOf (fun t => t.preCnt) (exec (.prsFeed 0xFF) (counting 255)) = some 255 ∧
    viewOf (fun t => t.preCnt) (exec (.prsFeed 0xFF) (counting 254)) = some 255 := by decide
theorem witness_FeedStartDelimiter : Running (idleIn .noPreamble) ∧ (idleIn .noPreamble).pstate = .startDelimiter ∧
    (idleIn .noPreamble).mode = .noPreamble ∧ ParserInv (idleIn .noPreamble) :=
  ⟨running_idle _ (by decide), rfl, rfl, inv_idle _ (by decide)⟩
theorem witness_FeedAddress : Running { waiting .address with fKind := .long, aIdx := 4 } ∧
    (waiting .address).pstate = .address ∧ (4 : BitVec 3).toNat < 5 ∧
    ParserInv { waiting .address with fDelim := 0x82, fKind := .long, aIdx := 4 } :=
  ⟨⟨rfl, by decide⟩, rfl, by decide, by constructor <;> decide⟩
theorem witness_FeedCommand : Running (waiting .command) ∧ (waiting .command).pstate = .command :=
  ⟨running_waiting _, rfl⟩
theorem witness_FeedDataLength : Running awaitingLength ∧ awaitingLength.pstate = .dataLength ∧
    awaitingLength.fDelim.toNat % 8 = 6 ∧ ¬(awaitingLength.fDelim.toNat % 8 = 6 ∧ (2 : Byte) = 1) ∧
    ¬((waiting .dataLength).fDelim.toNat % 8 = 6 ∧ (1 : Byte) = 1) :=
  ⟨⟨rfl, by decide⟩, rfl, by decide, by decide, by decide⟩
theorem witness_FeedData_code : Running (inResponse 2 0 0 0) ∧ (inResponse 2 0 0 0).pstate = .data ∧
    (inResponse 2 0 0 0).fDelim.toNat % 8 = 6 ∧ (inResponse 2 0 0 0).dIdx = 0 :=
  ⟨⟨rfl, by decide⟩, rfl, by decide, rfl⟩
theorem witness_FeedData_status : Running (inResponse 2 1 1 0) ∧ (inResponse 2 1 1 0).pstate = .data ∧
    (inResponse 2 1 1 0).fDelim.toNat % 8 = 6 ∧ (inResponse 2 1 1 0).dIdx = 1 :=
  ⟨⟨rfl, by decide⟩, rfl, by decide, rfl⟩
theorem witness_FeedData_payload : Running (inRequest 255 254) ∧ (inRequest 255 254).pstate = .data ∧
    ¬((inRequest 255 254).fDelim.toNat % 8 = 6 ∧ (inRequest 255 254).dIdx.toNat < 2) ∧
    (inRequest 255 254).dataLen.toNat < 255 ∧
    ¬((inResponse 3 2 2 0).fDelim.toNat % 8 = 6 ∧ (inResponse 3 2 2 0).dIdx.toNat < 2) ∧
    ParserInv (inRequest 255 254) :=
  ⟨⟨rfl, by decide⟩, rfl, by decide, by decide, by decide, by constructor <;> decide⟩
theorem witness_OutOfRangeIndexStops : Running { waiting .address with aIdx := 5 } ∧
    5 ≤ ({ waiting .address with aIdx := 5 } : State).aIdx.toNat ∧ Running (inRequest 255 255) ∧
    ¬((inRequest 255 255).fDelim.toNat % 8 = 6 ∧ (inRequest 255 255).dIdx.toNat < 2) ∧
    (inRequest 255 255).dataLen.toNat = 255 ∧
    viewOf (fun t => t.pstate) (exec (.prsFeed 0) (inRequest 255 255)) = none :=
  ⟨⟨rfl, by decide⟩, by decide, ⟨rfl, by decide⟩, by decide, by decide, by decide⟩
theorem inv_checksum_withPreamble : ParserInv { awaitingChecksum with mode := .parsePreamble, preCnt := 2 } := by
  constructor <;> decide
theorem inv_checksum_response : ParserInv
    { awaitingChecksum with fDelim := 0x06, fLen := 2, dIdx := 2, rcLen := 2, buf := [], dataLen := 0 } := by
  constructor <;> decide
theorem witness_FeedChecksum : Running awaitingChecksum ∧ awaitingChecksum.pstate = .checksum ∧
    ParserInv awaitingChecksum ∧ awaitingChecksum.mode = .noPreamble ∧ (0x80 : Byte) = regCks awaitingChecksum ∧
    ParserInv { awaitingChecksum with mode := .parsePreamble, preCnt := 2 } :=
  ⟨⟨rfl, by decide⟩, rfl, inv_awaitingChecksum, rfl, by decide, inv_checksum_withPreamble⟩
theorem witness_DeliveredFrameValidates : ParserInv awaitingChecksum ∧ Running awaitingChecksum ∧
    awaitingChecksum.pstate = .checksum ∧
    (eventOf (exec (.prsFeed (regCks awaitingChecksum)) awaitingChecksum)).isSome = true :=
  ⟨inv_awaitingChecksum, ⟨rfl, by decide⟩, rfl, by decide⟩
theorem witness_EventExactlyFromChecksum : Running awaitingChecksum ∧ awaitingChecksum.pstate = .checksum ∧
    (eventOf (exec (.prsFeed 0x81) awaitingChecksum)).isSome = true := ⟨⟨rfl, by decide⟩, rfl, by decide⟩
theorem witness_FaultWritesOnlyLatch :
    outcomeOf (exec (.prsFeed 1) awaitingLength) = some (.fault .shortResponseLength (some 1)) ∧
    outcomeOf (exec .prsReset State.reset) = some (.fault .parserUninit none) ∧
    FaultCode.parserUninit ≠ .shortResponseLength := by decide
theorem witness_PureOperationsIgnoreParser : isPure (.frmCksum f5) = true ∧ State.reset.cfg = latched.cfg ∧
    outcomeOf (exec (.frmCksum f5) latched) = some (.ok (.byte 0x86)) := by decide
theorem witness_BufferFrame : storedIndex (.prsFeed 0xAA) (inRequest 255 254) = some 254 ∧
    storedIndex (.prsFeed 0xAA) (inRequest 255 254) ≠ some 253 ∧ storedIndex .prsReset latched ≠ some 0 ∧
    viewOf (fun t => bufRead t.buf 254) (exec (.prsFeed 0xAA) (inRequest 255 254)) = some 0xAA := by decide
theorem witness_ModeAndLatchFrame : viewOf (fun t => t.fault) (exec .prsReset latched) = some true ∧
    (∀ m, Instr.prsReset ≠ .prsInit m) ∧ latched.fault = true :=
  ⟨by decide, fun _ h => Instr.noConfusion h, rfl⟩
theorem witness_LatchStaysWithoutInit : latched.fault = true ∧ (∀ m, Instr.prsReset ≠ .prsInit m) ∧
    isPure .prsReset = false ∧
    (∀ p ∈ (asked latched [0x2200]).inputs, p ≠ .hardwareReset ∧ ∀ m, decode p ≠ .instr (.prsInit m)) ∧
    (viewOf (fun t => t.fault) (runSteps 1 (asked latched [0x2200]))) = some true := by
  refine ⟨rfl, fun _ h => Instr.noConfusion h, rfl, ?_, by decide⟩
  intro p hp
  simp only [asked, List.map, List.mem_singleton] at hp
  subst hp
  refine ⟨by decide, fun m h => ?_⟩
  have e : decode (.op 0x2200 zeroLanes) = .instr (.prsFeed 0) := by decide
  rw [e] at h
  simp at h

theorem witness_RearmForgets : Running (counting 2) ∧ Running (idleIn .parsePreamble) ∧
    (counting 2).mode = (idleIn .parsePreamble).mode ∧ (counting 2).cfg = (idleIn .parsePreamble).cfg ∧
    (counting 2).faultCode = (idleIn .parsePreamble).faultCode ∧
    outcomeOf (exec .prsReset (counting 2)) = some (.ok .none) ∧
    outcomeOf (exec (.prsInit 2) latched) = some (.ok .none) :=
  ⟨⟨rfl, by decide⟩, ⟨rfl, by decide⟩, rfl, rfl, rfl, by decide, by decide⟩

theorem idleParser_idle (m : Mode) (h : m ≠ .uninit) : IdleParser (idleIn m) :=
  ⟨rfl, h, by constructor <;> rfl⟩

/-- The bytes of F10 from the delimiter on (a response of two announced bytes), and of F3 (a request of none). -/
theorem witness_FrameBytesConsumed : IdleParser (idleIn .noPreamble) ∧ (idleIn .noPreamble).mode = .noPreamble ∧
    ([0x80] : List Byte).length = kindLen (delimKind 0x06) ∧ ([0x88, 0x00] : List Byte).length = (2 : Byte).toNat ∧
    ¬(isResponse 0x06 = true ∧ (2 : Byte) = 1) :=
  ⟨idleParser_idle _ (by decide), rfl, by decide, by decide, by decide⟩
theorem witness_FrameAfterPreamble : IdleParser (idleIn .parsePreamble) ∧
    (idleIn .parsePreamble).mode = .parsePreamble ∧ 2 ≤ (idleIn .parsePreamble).cfg.preW ∧
    (0xFF : Byte) ∉ ([0x00, 0x12] : List Byte) ∧ 2 ≤ 2 ∧ (0x82 : Byte) ≠ 0xFF ∧
    ([0xA6, 0x06, 0xBC, 0x61, 0x4E] : List Byte).length = kindLen (delimKind 0x82) ∧
    ([] : List Byte).length = (0 : Byte).toNat ∧ ¬(isResponse 0x82 = true ∧ (0 : Byte) = 1) :=
  ⟨idleParser_idle _ (by decide), rfl, by decide, by decide, by decide, by decide, by decide, by decide, by decide⟩

/-- F7, F11 and F5 are self-consistent (spec/95 2.3). -/
theorem witness_ParserInvertsEncodeNoPreamble : encodable f7 = true ∧ SelfConsistent f7 ∧ SelfConsistent f5 ∧
    SelfConsistent f11 ∧ outcomeOf (exec (.frmEncode f5) State.reset) =
      some (.ok (.bytes [0x06, 0x80, 0x00, 0x00, 0x86])) ∧
    outcomeOf (exec (.prsInit 2) State.reset) = some (.ok .none) := by
  refine ⟨by decide, ?_, ?_, ?_, by decide, by decide⟩ <;> (refine ⟨?_, ?_, ?_⟩ <;> decide)
theorem witness_ParserInvertsEncodePreamble : encodable f10 = true ∧ SelfConsistent f10 ∧ 2 ≤ f10.pre ∧
    f10.pre ≤ 2 ^ State.reset.cfg.preW - 1 ∧ f10.delim ≠ 0xFF ∧
    outcomeOf (exec (.prsInit 1) State.reset) = some (.ok .none) := by
  refine ⟨by decide, ⟨?_, ?_, ?_⟩, ?_, ?_, ?_, ?_⟩ <;> decide
theorem witness_ShortPreambleDropsFrame : IdleParser (idleIn .parsePreamble) ∧
    (idleIn .parsePreamble).mode = .parsePreamble ∧ ([0x06, 0x80, 0x00, 0x00, 0x86] : List Byte) ≠ [] ∧
    (0xFF : Byte) ∉ ([0x06, 0x80, 0x00, 0x00, 0x86] : List Byte) :=
  ⟨idleParser_idle _ (by decide), rfl, by decide, by decide⟩

theorem witness_HipEncodeResult : (7 : Word16).toNat < 8 ∧ 8 ≤ (8 : Word16).toNat := by decide
/-- The count below 8 and exactly 8, in the last two bytes of eight. -/
theorem witness_HipDecodeResult :
    (headerOf #v[1, 0, 2, 0, 0, 0, 0, 7]).byteCount.toNat < 8 ∧
    8 ≤ (headerOf #v[1, 0, 2, 0, 0, 0, 0, 8]).byteCount.toNat := by decide
theorem witness_HipRoundTrip :
    outcomeOf (exec (.hipEncode
      { version := 1, msgType := 1, msgId := 1, status := 0, seq := 0xFFFF, byteCount := 8 }) State.reset) =
      some (.ok (.bytes (#v[0x01, 0x01, 0x01, 0x00, 0xFF, 0xFF, 0x00, 0x08] : Vector Byte 8).toList)) ∧
    outcomeOf (exec (.hipDecode #v[0, 0, 0, 0, 0, 0, 0, 0]) State.reset) =
      some (.ok (.headerDecoded ⟨0, 0, 0, 0, 0, 0⟩ 0 0)) := by decide
theorem witness_PackedGroupLayout : unpack3 0x20 0x14 0x94 = [0x48, 0x41, 0x52, 0x54] := by decide
theorem witness_PaUnpackResult : 1 < ([0x50, 0x11, 0xF1, 0x82, 0x08, 0x20, 0x00] : List Byte).length / 3 ∧
    (0x5F : Byte) ∈ unpackGroups [0x7D, 0xB7, 0x1D] := by decide
theorem witness_StrFitResult : State.reset.cfg.fitReserveNul = true ∧ 0 < 1 ∧
    ({ State.reset with cfg := { Config.default with fitReserveNul := false } } : State).cfg.fitReserveNul = false ∧
    ([0x41, 0x42] : List Byte).length = 2 := by decide
theorem witness_PaPackResult : 1 < 8 / 3 := by decide
theorem witness_PackThenUnpack :
    outcomeOf (exec (.paPack [0x48, 0x41, 0x52, 0x54] 4) State.reset) = some (.ok (.bytes [0x20, 0x14, 0x80, 0x00])) ∧
    ∀ c ∈ ([0x48, 0x41, 0x52, 0x54, 0x20, 0x5F] : List Byte), 0x20 ≤ c.toNat ∧ c.toNat ≤ 0x5F := by decide
theorem witness_UnpackThenPack : ([0xFF, 0xFF, 0xFF] : List Byte).length % 3 = 0 ∧
    outcomeOf (exec (.paUnpack [0xFF, 0xFF, 0xFF]) State.reset) = some (.ok (.bytes [0x3F, 0x3F, 0x3F, 0x3F])) ∧
    State.reset.cfg.fitReserveNul = true ∧ ([0xFF, 0xFF, 0xFF] : List Byte) = [0xFF, 0xFF] ++ [0xFF] := by decide
/-- A byte that faults and one that does not, a state of the invariant, and the bounds of HIP_WRAP. -/
theorem witness_PseudoOperations :
    outcomeOf (exec (.prsFeed 1) awaitingLength) = some (.fault .shortResponseLength (some 1)) ∧
    outcomeOf (exec (.prsFeed 0x80) awaitingChecksum) = some (.ok .none) ∧
    (runFeeds (idleIn .noPreamble) [] = .next { final := idleIn .noPreamble, events := [], allOk := true }) ∧
    ParserInv awaitingChecksum ∧ 65527 ≤ 65527 ∧ 65527 < 65528 :=
  ⟨by decide, by decide, rfl, inv_awaitingChecksum, by decide, by decide⟩
/-- HIP_WRAP at the ends of its range (R111, spec/90_conflicts.md C13). -/
theorem test_hipWrap_bounds : (hipWrap Config.default 1 3 0 7 65527).map
      (fun i => outcomeOf (exec i State.reset)) =
      some (some (.ok (.bytes [0x01, 0x01, 0x03, 0x00, 0x00, 0x07, 0xFF, 0xFF]))) ∧
    hipWrap Config.default 1 3 0 7 65528 = none := by decide

end Sys2Proof.Tests
end

section
/-!
PROOFS. What one step does with the oldest request (spec/20_memory.md R73, spec/93 U20), said once for every
request that decodes to an instruction, and the statement that follows from it.
-/
namespace Sys2Proof.Machine

theorem fetch_of_decode_instr {s : State} {p : PortInput} {rest : List PortInput} {i : Instr}
    (hport : s.inputs = p :: rest) (hdec : decode p = .instr i) :
    fetch s = .run i { s with inputs := rest } := by
  simp only [fetch, hport, hdec]

/-- Both sides of the check of U20: the operand is expressible and the instruction runs, or the step
refuses it by name. -/
theorem step_of_decode_instr {s : State} {p : PortInput} {rest : List PortInput} {i : Instr}
    (hport : s.inputs = p :: rest) (hdec : decode p = .instr i) :
    step s = if wellFormed s.cfg i then exec i { s with inputs := rest }
      else .refused .operandNotExpressible := by
  simp only [step, fetch_of_decode_instr hport hdec]

/-- Settles O5: the fetch gives the decoded instruction, and the well-formed one passes the check of U20. -/
theorem stepRunsDecoded : Obligations.StepRunsDecoded := by
  intro s p rest i hport hdec hwf
  rw [step_of_decode_instr hport hdec, if_pos hwf]

end Sys2Proof.Machine
end

section
/-!
PROOFS. What one operation and one step can have done when they answer a next state, said once for every
instruction (spec/10_state.md R48, spec/20_memory.md R73), and what a run then keeps.
-/
namespace Sys2Proof.Machine

/-- What an operation has done that answers `t`: the ports alone, or one of the three parser operations. -/
inductive ExecStep (s : State) : Instr → State → Prop where
  | portsOnly {i : Instr} {t : State} (e : t.event = none) (k : SameRegs s t) : ExecStep s i t
  | init {m : Byte} {mode : Mode} (e : modeOf m = some mode) :
      ExecStep s (.prsInit m) (deliver .none (rearm { clearLatch s with mode := mode }))
  | rearm (h : Running s) : ExecStep s .prsReset (deliver .none (rearm s))
  | feed {b : Byte} {t : State} (f : FeedStep b s t) : ExecStep s (.prsFeed b) t

theorem ExecStep.of_deliver (i : Instr) (r : Result) (s : State) : ExecStep s i (deliver r s) :=
  .portsOnly rfl (deliver_sameRegs r s)

theorem ExecStep.of_plainFault {c : FaultCode} (hc : faultLatches c = false) (i : Instr)
    (info : Option Nat) (s : State) : ExecStep s i (takeFault c info s) := by
  obtain ⟨-, hevent, hregs⟩ := takeFault_plainFault hc info s
  exact .portsOnly hevent hregs

theorem exec_init_of_modeOf_none {m : Byte} (e : modeOf m = none) (s : State) :
    exec (.prsInit m) s = .next (takeFault .invalidArgument (some m.toNat) s) := by
  simp only [exec, execPrsInit, e]

theorem exec_init_of_modeOf_some {m : Byte} {mode : Mode} (e : modeOf m = some mode) (s : State) :
    exec (.prsInit m) s = .next (deliver .none (rearm { clearLatch s with mode := mode })) := by
  simp only [exec, execPrsInit, e]

/-- The immediate of PRS_INIT never selects the mode of reset (R161). -/
theorem modeOf_ne_uninit {m : Byte} {mode : Mode} (e : modeOf m = some mode) : mode ≠ .uninit := by
  unfold modeOf at e
  split at e
  · cases e; decide
  · split at e
    · cases e; decide
    · cases e

/-- The inversion lemma of the operations. -/
theorem execStep_of_exec {i : Instr} {s t : State} (h : exec i s = .next t) : ExecStep s i t := by
  cases hpure : isPure i with
  | true =>
    rcases exec_pure hpure s.cfg with ⟨r, hr⟩ | ⟨c, n, hc, hr⟩ <;> rw [hr s rfl] at h <;> cases h
    · exact .of_deliver i r s
    · exact .of_plainFault hc i _ s
  | false =>
    cases i with
    | prsInit m =>
      cases hm : modeOf m with
      | none => rw [exec_init_of_modeOf_none hm] at h; cases h; exact .of_plainFault rfl _ _ s
      | some mode => rw [exec_init_of_modeOf_some hm] at h; cases h; exact .init hm
    | prsReset =>
      cases hg : parserGuard s with
      | none =>
        have hr := parserGuard_none_iff.1 hg
        rw [exec_reset_running hr] at h; cases h; exact .rearm hr
      | some g => rw [exec_reset_guarded hg] at h; cases h; exact .of_plainFault (parserGuard_plain hg) _ _ s
    | prsFeed b => exact .feed (feedStep_of_exec h)
    | _ => cases hpure

/-! ### One step -/

theorem step_of_idle {s : State} (h : s.inputs = []) : step s = .next s := by
  simp only [step, fetch, h]

theorem step_of_hardwareReset {s : State} {rest : List PortInput}
    (h : s.inputs = .hardwareReset :: rest) :
    step s = .next (hardwareReset { s with inputs := rest }) := by
  simp only [step, fetch, h, decode]

/-- What a step can have done that answers `t`: nothing on an idle port, or what the oldest request asks
of the state with that request taken. -/
theorem step_cases {s t : State} (h : step s = .next t) :
    (s.inputs = [] ∧ t = s) ∨ ∃ p rest, s.inputs = p :: rest ∧
      ((decode p = .reset ∧ t = hardwareReset { s with inputs := rest }) ∨
       (∃ op, decode p = .illegalOp op ∧ t = execIllegalOp op { s with inputs := rest }) ∨
       (∃ i, decode p = .instr i ∧ exec i { s with inputs := rest } = .next t)) := by
  cases hport : s.inputs with
  | nil => rw [step_of_idle hport] at h; cases h; exact .inl ⟨rfl, rfl⟩
  | cons p rest =>
    refine .inr ⟨p, rest, rfl, ?_⟩
    cases hdec : decode p with
    | reset => simp only [step, fetch, hport, hdec] at h; cases h; exact .inl ⟨rfl, rfl⟩
    | illegalOp op => simp only [step, fetch, hport, hdec] at h; cases h; exact .inr (.inl ⟨op, rfl, rfl⟩)
    | instr i =>
      rw [step_of_decode_instr hport hdec] at h
      split at h
      · exact .inr (.inr ⟨i, rfl, h⟩)
      · cases h

/-! ### Runs -/

/-- A run of `k + 1` steps is a step and a run of `k`. -/
theorem run_succ_cases {M : Host.Core} {k : Nat} {s u : M.State} (h : M.run (k + 1) s = .next u) :
    ∃ t, M.step s = .next t ∧ M.run k t = .next u := by
  unfold Host.Core.run at h
  split at h
  · next t hs => exact ⟨t, hs, h⟩
  · cases h
  · cases h

theorem runSteps_succ_cases {k : Nat} {s u : State} (h : runSteps (k + 1) s = .next u) :
    ∃ t, step s = .next t ∧ runSteps k t = .next u :=
  run_succ_cases (M := Sys2Proof.core) h

/-- What every step keeps holds in each state a run reaches. -/
theorem runSteps_keeps {P : State → Prop} (hstep : ∀ s t, P s → step s = .next t → P t) {k : Nat} :
    ∀ {s t : State}, P s → runSteps k s = .next t → P t := by
  induction k with
  | zero => intro s t hs h; cases h; exact hs
  | succ k ih =>
    intro s u hs h
    obtain ⟨t, hst, hrun⟩ := runSteps_succ_cases h
    exact ih (hstep s t hs hst) hrun

end Sys2Proof.Machine
end

section
/-!
PROOFS. Hardware reset (spec/10_state.md R50, spec/70_reset_and_hazards.md R270, R274).
-/
namespace Sys2Proof.Machine

/-- Hardware reset reads the parameters and the pending requests alone. -/
theorem hardwareReset_congr {s s' : State} (hcfg : s.cfg = s'.cfg) (hin : s.inputs = s'.inputs) :
    hardwareReset s = hardwareReset s' := by
  simp only [hardwareReset, hcfg, hin]

/-- The state after reset meets the invariant: every clause about a running parser, a latch or a frame
under way has a false premise there. -/
theorem parserInv_resetWith {c : Config} (hw : 2 ≤ c.preW) : ParserInv (State.resetWith c) := by
  constructor <;> simp [State.resetWith, hw, Memory.wf]

theorem parserInv_hardwareReset {s : State} (hw : 2 ≤ s.cfg.preW) : ParserInv (hardwareReset s) :=
  (parserInv_resetWith hw).of_inputs s.inputs

/-- Settles O7: the reset request gives the state after reset, which reads the parameters and the port alone. -/
theorem hardwareResetStep : Obligations.HardwareResetStep := by
  refine ⟨fun s rest hport => ?_, fun s s' rest hcfg hport hport' => ?_, fun s hport => step_of_idle hport⟩
  · refine ⟨_, step_of_hardwareReset hport, ?_⟩
    simp
  · rw [step_of_hardwareReset hport, step_of_hardwareReset hport']
    exact congrArg Host.Outcome.next (hardwareReset_congr hcfg rfl)

/-- Settles O8: the registers by unfolding the reset state, the defaults of R9 by evaluation. -/
theorem resetValues : Obligations.ResetValues := by
  refine ⟨fun c => ?_, ?_⟩
  · simp only [State.resetWith, and_self]
  · decide

/-- Settles O9: `State.reset` is the reset state of the default parameters. -/
theorem resetMeetsParserInv : Obligations.ResetMeetsParserInv :=
  ⟨parserInv_resetWith (by decide), fun _ hw => parserInv_resetWith hw⟩

end Sys2Proof.Machine
end

section
/-!
PROOFS. What PRS_FEED leaves unchanged in every parser state (spec/42_frame_parser.md R164 to R174), and the
frame statements of every operation that follow (spec/10_state.md R31, R39, R40).
-/
namespace Sys2Proof.Machine

/-- What no feed writes, in whatever parser state: the parameters, the mode, the pending requests. -/
structure FeedFrame (s t : State) : Prop where
  cfg : t.cfg = s.cfg
  mode : t.mode = s.mode
  inputs : t.inputs = s.inputs

theorem feedNotInCommand_cases (b : Byte) (s : State) :
    (b = 0xFF ∧ feedNotInCommand b s = { s with pstate := .preamble, preCnt := 1 }) ∨
    (b ≠ 0xFF ∧ feedNotInCommand b s = s) := by
  unfold feedNotInCommand
  split
  · next hb => exact .inl ⟨hb, rfl⟩
  · next hb => exact .inr ⟨hb, rfl⟩

theorem feedPreamble_cases (b : Byte) (s : State) :
    (b = 0xFF ∧ feedPreamble b s = { s with preCnt := min (s.preCnt + 1) (preMax s.cfg) }) ∨
    (b ≠ 0xFF ∧ 2 ≤ s.preCnt ∧ feedPreamble b s = feedStartDelimiter b s) ∨
    (b ≠ 0xFF ∧ s.preCnt < 2 ∧ feedPreamble b s = { s with pstate := .notInCommand, preCnt := 0 }) := by
  unfold feedPreamble
  split
  · next hb => exact .inl ⟨hb, rfl⟩
  · next hb =>
    split
    · next hc => exact .inr (.inl ⟨hb, hc, rfl⟩)
    · next hc => exact .inr (.inr ⟨hb, by simpa using hc, rfl⟩)

/-- The state after the length byte is taken (R172). -/
def afterLengthByte (b : Byte) (s : State) : State :=
  { s with fLen := b, dIdx := 0, rcLen := 0, dataLen := 0, pstate := if b = 0 then .checksum else .data }

theorem feedDataLength_cases (b : Byte) (s : State) :
    (isResponse s.fDelim = true ∧ b = 1 ∧
      feedDataLength b s = takeFault .shortResponseLength (some b.toNat) s) ∨
    ((isResponse s.fDelim = true → b ≠ 1) ∧ feedDataLength b s = deliver .none (afterLengthByte b s)) := by
  unfold feedDataLength
  split
  · next h => exact .inl ⟨h.1, h.2, rfl⟩
  · next h => exact .inr ⟨fun hr hb => h ⟨hr, hb⟩, rfl⟩

theorem FeedStep.frame {b : Byte} {s t : State} (f : FeedStep b s t) : FeedFrame s t := by
  cases f with
  | guarded g => exact ⟨rfl, rfl, rfl⟩
  | search h p => rcases feedNotInCommand_cases b s with ⟨-, e⟩ | ⟨-, e⟩ <;> rw [e] <;> exact ⟨rfl, rfl, rfl⟩
  | count h p =>
    rcases feedPreamble_cases b s with ⟨-, e⟩ | ⟨-, -, e⟩ | ⟨-, -, e⟩ <;> rw [e] <;> exact ⟨rfl, rfl, rfl⟩
  | delimiter h p => exact ⟨rfl, rfl, rfl⟩
  | address h p i q e => exact ⟨rfl, rfl, rfl⟩
  | command h p => exact ⟨rfl, rfl, rfl⟩
  | dataLength h p =>
    rcases feedDataLength_cases b s with ⟨-, -, e⟩ | ⟨-, e⟩ <;> rw [e] <;> exact ⟨rfl, rfl, rfl⟩
  | rcByte h p r i => constructor <;> simp
  | payload h p r i => exact ⟨rfl, rfl, rfl⟩
  | checksum h p => exact ⟨rfl, rfl, rfl⟩

/-- A feed of a latched parser is turned away and writes the ports alone. -/
theorem FeedStep.sameRegs_of_latched {b : Byte} {s t : State} (f : FeedStep b s t) (hf : s.fault = true) :
    SameRegs s t := by
  have hstop : ¬Running s := fun h => by simp [h.1] at hf
  cases f with
  | guarded g =>
    obtain ⟨-, -, hregs⟩ := takeFault_plainFault (parserGuard_plain g) _ s
    exact hregs
  | search h | count h | delimiter h | address h | command h | dataLength h | rcByte h | payload h
  | checksum h => exact absurd h hstop

/-- The buffer after a feed: as before, or with the payload byte at the index the rule gives (R173). -/
theorem FeedStep.buf {b : Byte} {s t : State} (f : FeedStep b s t) :
    t.buf = s.buf ∨ ∃ i, storedIndex (.prsFeed b) s = some i ∧ t.buf = bufWrite s.buf i b := by
  cases f with
  | guarded g => exact .inl rfl
  | search h p => rcases feedNotInCommand_cases b s with ⟨-, e⟩ | ⟨-, e⟩ <;> rw [e] <;> exact .inl rfl
  | count h p =>
    rcases feedPreamble_cases b s with ⟨-, e⟩ | ⟨-, -, e⟩ | ⟨-, -, e⟩ <;> rw [e] <;> exact .inl rfl
  | delimiter h p => exact .inl rfl
  | address h p i q e => exact .inl rfl
  | command h p => exact .inl rfl
  | dataLength h p =>
    rcases feedDataLength_cases b s with ⟨-, -, e⟩ | ⟨-, e⟩ <;> rw [e] <;> exact .inl rfl
  | rcByte h p r i => left; simp
  | payload h p r i =>
    refine .inr ⟨s.dataLen.toNat, ?_, rfl⟩
    simp only [storedIndex, parserGuard_running h, p, and_self, if_true, storeIndex_buf r]
  | checksum h p => exact .inl rfl

/-- Settles O41: only a feed touches the buffer, and only at the index the rule gives. -/
theorem bufferFrame : Obligations.BufferFrame := by
  intro i s t h a ha
  cases execStep_of_exec h with
  | portsOnly e k => exact k.rest.bufByte a
  | init e => rfl
  | rearm hr => rfl
  | feed f =>
    rcases f.buf with e | ⟨j, hj, e⟩
    · rw [e]
    · have haj : a ≠ j := fun hEq => ha (hEq ▸ hj)
      rw [e, bufRead_bufWrite_other _ _ haj]

/-- Settles O42: what is not PRS_INIT leaves the latch because a latched parser does not run. -/
theorem modeAndLatchFrame : Obligations.ModeAndLatchFrame := by
  intro i s t h
  cases execStep_of_exec h with
  | portsOnly e k =>
    exact ⟨k.rest.cfg, k.rest.inputs, fun _ => ⟨k.rest.mode, fun hf => ⟨k.fault.trans hf, k.faultCode⟩⟩⟩
  | init e => exact ⟨rfl, rfl, fun hne => absurd rfl (hne _)⟩
  | rearm hr => exact ⟨rfl, rfl, fun _ => ⟨rfl, fun hf => ⟨hf, rfl⟩⟩⟩
  | feed f =>
    refine ⟨f.frame.cfg, f.frame.inputs, fun _ => ⟨f.frame.mode, fun hf => ?_⟩⟩
    have k := f.sameRegs_of_latched hf
    exact ⟨k.fault.trans hf, k.faultCode⟩

end Sys2Proof.Machine
end

section
/-!
PROOFS. The invariant of a running parser read state by state (spec/10_state.md R49): each rule of PRS_FEED
then needs the facts of the one state it starts in and gives those of the state it ends in.
-/
namespace Sys2Proof.Machine

/-- The mode and the preamble counter in each parser state (R49 (a) and (b), R167, R175). -/
def CounterAt (s : State) : PState → Prop
  | .notInCommand => s.mode = .parsePreamble ∧ s.preCnt = 0
  | .preamble => s.mode = .parsePreamble ∧ 1 ≤ s.preCnt
  | .startDelimiter => s.mode = .noPreamble ∧ s.preCnt = 0
  | _ => (s.mode = .noPreamble → s.preCnt = 0) ∧ (s.mode = .parsePreamble → 2 ≤ s.preCnt)

/-- The address position in each parser state (R49 (c), R169). -/
def AddressAt (s : State) : PState → Prop
  | .notInCommand | .preamble | .startDelimiter => s.aIdx = 0
  | .address => s.aIdx.toNat < kindLen s.fKind ∧ s.fKind = delimKind s.fDelim
  | _ => s.aIdx.toNat = kindLen s.fKind ∧ s.fKind = delimKind s.fDelim

/-- The positions of the data phase in each parser state (R49 (d) and (e), R173). -/
def DataAt (s : State) : PState → Prop
  | .data => s.dIdx.toNat < s.fLen.toNat ∧
      s.rcLen.val = (if isResponse s.fDelim then min s.dIdx.toNat 2 else 0) ∧
      s.rcLen.val + s.dataLen.toNat = s.dIdx.toNat ∧
      (isResponse s.fDelim = true → s.fLen ≠ 1)
  | .checksum => s.dIdx = s.fLen ∧
      s.rcLen.val = (if isResponse s.fDelim ∧ s.fLen ≠ 0 then 2 else 0) ∧
      s.rcLen.val + s.dataLen.toNat = s.fLen.toNat
  | _ => s.dIdx = 0 ∧ s.rcLen = 0 ∧ s.dataLen = 0

/-- The part of a running parser's invariant that names no parser state. -/
structure RunBase (s : State) : Prop where
  running : Running s
  width : 2 ≤ s.cfg.preW
  buffer : Memory.wf s.buf = true
  counter : s.preCnt ≤ preMax s.cfg
  unlatched : s.faultCode = 0

/-- The invariant of a parser that runs in state `p`; `ParserInv.runIn` and `RunIn.parserInv` tie it to
`ParserInv`. -/
structure RunIn (p : PState) (s : State) : Prop where
  base : RunBase s
  pstate : s.pstate = p
  counterAt : CounterAt s p
  addressAt : AddressAt s p
  dataAt : DataAt s p

theorem mode_cases_of_running {s : State} (h : Running s) : s.mode = .parsePreamble ∨ s.mode = .noPreamble := by
  cases hm : s.mode with
  | uninit => exact absurd hm h.2
  | parsePreamble => exact .inl rfl
  | noPreamble => exact .inr rfl

theorem ParserInv.counterAt {s : State} (h : ParserInv s) (hr : Running s) : CounterAt s s.pstate := by
  have hno := h.noPreamble
  have hwith := h.withPreamble
  rcases mode_cases_of_running hr with hm | hm
  · have hcount := hwith hm
    cases hp : s.pstate <;> simp_all [CounterAt, h.searching, h.counting]
  · obtain ⟨hnic, hpre, hzero⟩ := hno hm
    cases hp : s.pstate <;> simp_all [CounterAt]

theorem ParserInv.addressAt {s : State} (h : ParserInv s) : AddressAt s s.pstate := by
  have hkind := h.kind
  cases hp : s.pstate with
  | notInCommand => exact h.beforeAddress (.inl hp)
  | preamble => exact h.beforeAddress (.inr (.inl hp))
  | startDelimiter => exact h.beforeAddress (.inr (.inr hp))
  | address => exact ⟨h.inAddress hp, hkind (by simp [hp]) (by simp [hp]) (by simp [hp])⟩
  | command | dataLength | data | checksum =>
    exact ⟨h.afterAddress (by simp [hp]), hkind (by simp [hp]) (by simp [hp]) (by simp [hp])⟩

theorem ParserInv.dataAt {s : State} (h : ParserInv s) : DataAt s s.pstate := by
  cases hp : s.pstate with
  | data => exact h.inData hp
  | checksum => exact h.inChecksum hp
  | notInCommand | preamble | startDelimiter | address | command | dataLength =>
    exact h.beforeData (by simp [hp]) (by simp [hp])

theorem ParserInv.runIn {s : State} (h : ParserInv s) (hr : Running s) {p : PState} (hp : s.pstate = p) :
    RunIn p s := by
  subst hp
  exact ⟨⟨hr, h.width, h.buffer, h.counter, h.unlatched hr.1⟩, rfl, h.counterAt hr, h.addressAt, h.dataAt⟩

theorem RunIn.parserInv {s : State} {p : PState} (h : RunIn p s) : ParserInv s := by
  obtain ⟨⟨⟨hf, hm⟩, hw, hb, hc, hu⟩, hp, hcnt, haddr, hdata⟩ := h
  constructor
  case width => exact hw
  case buffer => exact hb
  case counter => exact hc
  case uninit => exact fun h => absurd h hm
  case unlatched => exact fun _ => hu
  case latched => exact fun h => absurd hf (by simp [h])
  case noPreamble | withPreamble => cases p <;> simp_all [CounterAt]
  case searching => intro hq; cases hp.symm.trans hq; exact hcnt.2
  case counting => intro hq; cases hp.symm.trans hq; exact hcnt.2
  case beforeAddress => rintro (hq | hq | hq) <;> cases hp.symm.trans hq <;> exact haddr
  case inAddress => intro hq; cases hp.symm.trans hq; exact haddr.1
  case afterAddress => rintro (hq | hq | hq | hq) <;> cases hp.symm.trans hq <;> exact haddr.1
  case kind => cases p <;> simp_all [AddressAt]
  case beforeData => cases p <;> simp_all [DataAt]
  case inData => intro hq; cases hp.symm.trans hq; exact hdata
  case inChecksum => intro hq; cases hp.symm.trans hq; exact hdata

end Sys2Proof.Machine
end

section
/-!
PROOFS. Every rule of PRS_FEED takes the invariant of the state it starts in to that of the state it ends in
(spec/42_frame_parser.md R165 to R174), so every operation and every step keeps it (spec/10_state.md R49).
-/
namespace Sys2Proof.Machine

theorem emitComplete_sameRegs (f : Frame) (s : State) : SameRegs s (emitComplete f s) := by
  refine ⟨?_, rfl, rfl⟩
  constructor <;> intros <;> rfl

theorem toNat_add_one_of_lt {x y : Byte} (h : x.toNat < y.toNat) : (x + 1).toNat = x.toNat + 1 := by
  bv_omega

theorem kindLen_le_five (k : AddrKind) : kindLen k ≤ 5 := by
  cases k <;> decide

/-- R173: the response-code count after a response-code byte is the position after it. -/
theorem storeRcByte_rcLen {s : State} (b : Byte) (h : s.dIdx.toNat < 2) :
    (storeRcByte b s).rcLen.val = s.dIdx.toNat + 1 := by
  unfold storeRcByte
  split
  · next h0 => simp [h0]
  · next h0 =>
    have hpos : s.dIdx.toNat ≠ 0 := fun hz => h0 (BitVec.eq_of_toNat_eq hz)
    have hone : s.dIdx.toNat = 1 := by omega
    simp [hone]

section
variable {s : State}

theorem parserInv_feedNotInCommand (h : RunIn .notInCommand s) (b : Byte) :
    ParserInv (feedNotInCommand b s) := by
  rcases feedNotInCommand_cases b s with ⟨-, e⟩ | ⟨-, e⟩ <;> rw [e]
  · obtain ⟨⟨hr, hw, hbuf, -, hu⟩, -, ⟨hmode, -⟩, haddr, hdata⟩ := h
    have hmax := three_le_preMax hw
    have hcounter : 1 ≤ preMax s.cfg := by omega
    exact RunIn.parserInv (p := .preamble)
      ⟨⟨hr, hw, hbuf, hcounter, hu⟩, rfl, ⟨hmode, le_rfl⟩, haddr, hdata⟩
  · exact h.parserInv

/-- The delimiter byte, taken in StartDelimiter or at the end of a preamble, begins the address. -/
theorem parserInv_feedStartDelimiter (hbase : RunBase s) (b : Byte)
    (hcnt : (s.mode = .noPreamble → s.preCnt = 0) ∧ (s.mode = .parsePreamble → 2 ≤ s.preCnt))
    (hdata : s.dIdx = 0 ∧ s.rcLen = 0 ∧ s.dataLen = 0) : ParserInv (feedStartDelimiter b s) := by
  obtain ⟨hr, hw, hbuf, hcounter, hu⟩ := hbase
  have haddr : AddressAt (feedStartDelimiter b s) .address := by
    refine ⟨?_, rfl⟩
    show 0 < kindLen (delimKind b)
    cases delimKind b <;> decide
  exact RunIn.parserInv ⟨⟨hr, hw, hbuf, hcounter, hu⟩, rfl, hcnt, haddr, hdata⟩

theorem parserInv_feedPreamble (h : RunIn .preamble s) (b : Byte) : ParserInv (feedPreamble b s) := by
  obtain ⟨hbase, hp, ⟨hmode, -⟩, haddr, hdata⟩ := h
  have base {n : Nat} {p : PState} (hn : n ≤ preMax s.cfg) : RunBase { s with pstate := p, preCnt := n } :=
    ⟨hbase.running, hbase.width, hbase.buffer, hn, hbase.unlatched⟩
  rcases feedPreamble_cases b s with ⟨-, e⟩ | ⟨-, htwo, e⟩ | ⟨-, -, e⟩ <;> rw [e]
  · have hmax := three_le_preMax hbase.width
    have hcounts : 1 ≤ min (s.preCnt + 1) (preMax s.cfg) := by omega
    exact RunIn.parserInv (p := .preamble)
      ⟨base (p := s.pstate) (min_le_right _ _), hp, ⟨hmode, hcounts⟩, haddr, hdata⟩
  · exact parserInv_feedStartDelimiter hbase b ⟨fun hn => by simp [hmode] at hn, fun _ => htwo⟩ hdata
  · exact RunIn.parserInv (p := .notInCommand)
      ⟨base (Nat.zero_le _), rfl, ⟨hmode, rfl⟩, haddr, hdata⟩

theorem parserInv_afterAddressByte (h : RunIn .address s) (q : AddrRegs) :
    ParserInv (afterAddressByte q s) := by
  obtain ⟨⟨hr, hw, hbuf, hcounter, hu⟩, -, hcnt, ⟨hlt, hkind⟩, hdata⟩ := h
  have hfive := kindLen_le_five s.fKind
  have hnext : (s.aIdx + 1).toNat = s.aIdx.toNat + 1 := by bv_omega
  have hbase : RunBase (afterAddressByte q s) := ⟨hr, hw, hbuf, hcounter, hu⟩
  by_cases hlast : (s.aIdx + 1).toNat = kindLen s.fKind
  · exact RunIn.parserInv (p := .command) ⟨hbase, if_pos hlast, hcnt, ⟨hlast, hkind⟩, hdata⟩
  · have hmore : (s.aIdx + 1).toNat < kindLen s.fKind := by omega
    exact RunIn.parserInv (p := .address) ⟨hbase, if_neg hlast, hcnt, ⟨hmore, hkind⟩, hdata⟩

theorem parserInv_feedCommand (h : RunIn .command s) (b : Byte) : ParserInv (feedCommand b s) := by
  obtain ⟨⟨hr, hw, hbuf, hcounter, hu⟩, -, hcnt, haddr, hdata⟩ := h
  exact RunIn.parserInv (p := .dataLength) ⟨⟨hr, hw, hbuf, hcounter, hu⟩, rfl, hcnt, haddr, hdata⟩

/-- R254: the one latched fault of the block meets the clause about the latch. -/
theorem parserInv_shortResponseLength (h : ParserInv s) (hr : Running s) (hp : s.pstate = .dataLength)
    (hresp : isResponse s.fDelim = true) (info : Option Nat) :
    ParserInv (takeFault .shortResponseLength info s) := by
  constructor
  case uninit => exact fun hm => absurd hm hr.2
  case unlatched => exact fun hf => Bool.noConfusion hf
  case latched => exact fun _ => ⟨rfl, hp, hresp⟩
  exacts [h.width, h.buffer, h.counter, h.noPreamble, h.withPreamble, h.searching, h.counting,
    h.beforeAddress, h.inAddress, h.afterAddress, h.kind, h.beforeData, h.inData, h.inChecksum]

theorem parserInv_afterLengthByte (h : RunIn .dataLength s) {b : Byte}
    (hb : isResponse s.fDelim = true → b ≠ 1) : ParserInv (afterLengthByte b s) := by
  obtain ⟨⟨hr, hw, hbuf, hcounter, hu⟩, -, hcnt, haddr, -⟩ := h
  have hbase : RunBase (afterLengthByte b s) := ⟨hr, hw, hbuf, hcounter, hu⟩
  by_cases hz : b = 0
  · have hdata : DataAt (afterLengthByte b s) .checksum := by simp [DataAt, afterLengthByte, hz]
    exact RunIn.parserInv ⟨hbase, if_pos hz, hcnt, haddr, hdata⟩
  · have hpos : 0 < b.toNat := by bv_omega
    have hdata : DataAt (afterLengthByte b s) .data := by simpa [DataAt, afterLengthByte, hpos] using hb
    exact RunIn.parserInv ⟨hbase, if_neg hz, hcnt, haddr, hdata⟩

/-- The position moves past a stored byte (R173). `u` is the state with the byte stored; `hrc` and `hsum` say
how the position it moves to splits between response code and payload. -/
theorem parserInv_advanceData {u : State} (hbase : RunBase u) (hcnt : CounterAt u .data)
    (haddr : AddressAt u .data) (hlt : u.dIdx.toNat < u.fLen.toNat)
    (hrc : u.rcLen.val = if isResponse u.fDelim then min (u.dIdx.toNat + 1) 2 else 0)
    (hsum : u.rcLen.val + u.dataLen.toNat = u.dIdx.toNat + 1)
    (hshort : isResponse u.fDelim = true → u.fLen ≠ 1) : ParserInv (advanceData u) := by
  obtain ⟨hr, hw, hbuf, hcounter, hu⟩ := hbase
  have hbase' : RunBase (advanceData u) := ⟨hr, hw, hbuf, hcounter, hu⟩
  have hnext := toNat_add_one_of_lt hlt
  by_cases hlast : u.dIdx + 1 = u.fLen
  · have hlen : u.fLen.toNat = u.dIdx.toNat + 1 := by rw [← hlast, hnext]
    have hdata : DataAt (advanceData u) .checksum := by
      refine ⟨hlast, ?_, hsum.trans hlen.symm⟩
      show u.rcLen.val = if isResponse u.fDelim ∧ u.fLen ≠ 0 then 2 else 0
      cases hresp : isResponse u.fDelim with
      | false => simpa [hresp] using hrc
      | true =>
        have hzero : u.fLen ≠ 0 := by bv_omega
        have hone := hshort hresp
        have htwo : min (u.dIdx.toNat + 1) 2 = 2 := by bv_omega
        rw [hresp, if_pos rfl, htwo] at hrc
        rw [hrc, if_pos ⟨rfl, hzero⟩]
    exact RunIn.parserInv ⟨hbase', if_pos hlast, hcnt, haddr, hdata⟩
  · have hdata : DataAt (advanceData u) .data := by
      have hmore : (u.dIdx + 1).toNat < u.fLen.toNat := by bv_omega
      refine ⟨hmore, ?_, hsum.trans hnext.symm, hshort⟩
      show u.rcLen.val = if isResponse u.fDelim then min (u.dIdx + 1).toNat 2 else 0
      rw [hnext, hrc]
    exact RunIn.parserInv ⟨hbase', if_neg hlast, hcnt, haddr, hdata⟩

theorem parserInv_advanceData_storeRcByte (h : RunIn .data s) (b : Byte)
    (hresp : isResponse s.fDelim = true) (hidx : s.dIdx.toNat < 2) :
    ParserInv (advanceData (storeRcByte b s)) := by
  obtain ⟨⟨hr, hw, hbuf, hcounter, hu⟩, -, hcnt, haddr, hlt, hrc, hsum, hshort⟩ := h
  have hstore := storeRcByte_rcLen b hidx
  have hzero : s.dataLen.toNat = 0 := by simp only [hresp, if_true] at hrc; omega
  apply parserInv_advanceData
  case hbase => constructor <;> simpa [Running]
  all_goals simp only [CounterAt, AddressAt, storeRcByte_mode, storeRcByte_preCnt, storeRcByte_aIdx,
    storeRcByte_fKind, storeRcByte_fDelim, storeRcByte_dIdx, storeRcByte_fLen, storeRcByte_dataLen, hstore]
  case hcnt => exact hcnt
  case haddr => exact haddr
  case hlt => exact hlt
  case hrc => simp only [hresp, if_true]; omega
  case hsum => omega
  case hshort => exact hshort

theorem parserInv_afterPayloadByte (h : RunIn .data s) (b : Byte)
    (hbyte : ¬(isResponse s.fDelim = true ∧ s.dIdx.toNat < 2)) (hroom : s.dataLen.toNat < 255) :
    ParserInv (afterPayloadByte b s) := by
  obtain ⟨⟨hr, hw, hbuf, hcounter, hu⟩, -, hcnt, haddr, hlt, hrc, hsum, hshort⟩ := h
  have hlen : (s.dataLen + 1).toNat = s.dataLen.toNat + 1 := by bv_omega
  have hmin : isResponse s.fDelim = true → min (s.dIdx.toNat + 1) 2 = min s.dIdx.toNat 2 := fun hresp => by
    have hge : ¬s.dIdx.toNat < 2 := fun hi => hbyte ⟨hresp, hi⟩
    omega
  have hsum' : s.rcLen.val + (s.dataLen + 1).toNat = s.dIdx.toNat + 1 := by omega
  refine parserInv_advanceData ⟨hr, hw, bufWrite_wf b hbuf hroom, hcounter, hu⟩ hcnt haddr hlt ?_ hsum' hshort
  show s.rcLen.val = if isResponse s.fDelim then min (s.dIdx.toNat + 1) 2 else 0
  rw [hrc]
  split
  · next hresp => exact (hmin hresp).symm
  · rfl

theorem ParserInv.of_feedStep {t : State} {b : Byte} (h : ParserInv s) (f : FeedStep b s t) : ParserInv t := by
  have quiet : ∀ u, ParserInv u → ParserInv (deliver .none u) := fun u hu =>
    hu.of_sameRegs (deliver_sameRegs _ _)
  cases f with
  | guarded g =>
    obtain ⟨-, -, hregs⟩ := takeFault_plainFault (parserGuard_plain g) _ s
    exact h.of_sameRegs hregs
  | search hr hp => exact quiet _ (parserInv_feedNotInCommand (h.runIn hr hp) b)
  | count hr hp => exact quiet _ (parserInv_feedPreamble (h.runIn hr hp) b)
  | delimiter hr hp =>
    obtain ⟨hbase, -, ⟨hmode, hzero⟩, -, hdata⟩ := h.runIn hr hp
    exact quiet _ (parserInv_feedStartDelimiter hbase b ⟨fun _ => hzero, fun hm => by simp [hmode] at hm⟩ hdata)
  | address hr hp i q e => exact quiet _ (parserInv_afterAddressByte (h.runIn hr hp) q)
  | command hr hp => exact quiet _ (parserInv_feedCommand (h.runIn hr hp) b)
  | dataLength hr hp =>
    rcases feedDataLength_cases b s with ⟨hresp, -, e⟩ | ⟨hb, e⟩ <;> rw [e]
    · exact parserInv_shortResponseLength h hr hp hresp _
    · exact quiet _ (parserInv_afterLengthByte (h.runIn hr hp) hb)
  | rcByte hr hp hresp hi => exact quiet _ (parserInv_advanceData_storeRcByte (h.runIn hr hp) b hresp hi)
  | payload hr hp hbyte hroom => exact quiet _ (parserInv_afterPayloadByte (h.runIn hr hp) b hbyte hroom)
  | checksum hr hp =>
    exact (parserInv_rearm h.width h.buffer hr (h.unlatched hr.1)).of_sameRegs (emitComplete_sameRegs _ _)

/-- Every operation keeps the invariant. -/
theorem ParserInv.of_exec {i : Instr} {t : State} (h : ParserInv s) (he : exec i s = .next t) :
    ParserInv t := by
  cases execStep_of_exec he with
  | portsOnly _ k => exact h.of_sameRegs k
  | init e =>
    have hrearm := parserInv_rearm (s := { clearLatch s with mode := _ }) h.width h.buffer
      ⟨rfl, modeOf_ne_uninit e⟩ rfl
    exact hrearm.of_sameRegs (deliver_sameRegs _ _)
  | rearm hr =>
    exact (parserInv_rearm h.width h.buffer hr (h.unlatched hr.1)).of_sameRegs (deliver_sameRegs _ _)
  | feed f => exact h.of_feedStep f

end

/-- Settles O10: an idle port changes nothing, a reset and an illegal word meet the invariant at once, and an
operation keeps it once its request is taken. -/
theorem stepKeepsParserInv : Obligations.StepKeepsParserInv := by
  intro s t h hstep
  rcases step_cases hstep with ⟨-, rfl⟩ | ⟨p, rest, -, hp⟩
  · exact h
  · have htaken := h.of_inputs rest
    rcases hp with ⟨-, rfl⟩ | ⟨op, -, rfl⟩ | ⟨i, -, he⟩
    · exact parserInv_hardwareReset htaken.width
    · obtain ⟨-, -, hregs⟩ := takeFault_plainFault (c := .illegalOp) rfl (some op.toNat) { s with inputs := rest }
      exact htaken.of_sameRegs hregs
    · exact htaken.of_exec he

/-- R49 (f): a response leaves room for its two response-code bytes. -/
theorem RunIn.dataLen_le {s : State} {p : PState} (h : RunIn p s) (hresp : isResponse s.fDelim = true) :
    s.dataLen.toNat ≤ 253 := by
  have hdata := h.dataAt
  cases p with
  | data =>
    obtain ⟨hlt, hrc, hsum, -⟩ := hdata
    simp only [hresp, if_true] at hrc
    omega
  | checksum =>
    obtain ⟨-, hrc, hsum⟩ := hdata
    simp only [hresp, true_and] at hrc
    split at hrc <;> bv_omega
  | notInCommand | preamble | startDelimiter | address | command | dataLength =>
    obtain ⟨-, -, hzero⟩ := hdata
    simp [hzero]

/-- The invariant every step keeps gives the clauses of R49 at a boundary where the parser runs. -/
theorem ParserInv.boundaryInv {s : State} (h : ParserInv s) (hr : Running s) : BoundaryInv s where
  a := h.noPreamble
  b := ⟨h.searching, h.counting⟩
  c := h.inAddress
  d := fun hp => by
    obtain ⟨hlt, -, hsum, -⟩ := h.inData hp
    exact ⟨by omega, hlt, hsum⟩
  e := fun hp => by
    obtain ⟨-, hrc, hsum⟩ := h.inChecksum hp
    refine ⟨hsum, ?_⟩
    rw [hrc]
    split
    · exact .inr rfl
    · exact .inl rfl
  f := ⟨by omega, (h.runIn hr rfl).dataLen_le⟩

/-- Settles O11: reset meets the invariant, every step keeps it, and it gives the clauses. -/
theorem boundaryInvAlongRuns : Obligations.BoundaryInvAlongRuns := by
  intro c asked k t hw hrun hr
  have hreset := (parserInv_resetWith hw).of_inputs asked
  exact (runSteps_keeps stepKeepsParserInv hreset hrun).boundaryInv hr

end Sys2Proof.Machine
end

section
/-!
PROOFS. Where PRS_FEED meets an index the register files do not have (log entry 10; spec/10_state.md R36, R39),
and that the invariant rules it out.
-/
namespace Sys2Proof.Machine

theorem exec_ne_fault_of_pure {i : Instr} (h : isPure i = true) (s : State) (r : Fault) :
    exec i s ≠ .fault r := by
  rcases exec_pure h s.cfg with ⟨q, hq⟩ | ⟨c, n, -, hq⟩ <;> rw [hq s rfl] <;> exact nofun

/-- The model stops in PRS_FEED alone, in the two states that index a register file. -/
theorem exec_fault_cases {i : Instr} {s : State} {r : Fault} (h : exec i s = .fault r) :
    ∃ b, i = .prsFeed b ∧ Running s ∧ (s.pstate = .address ∨ s.pstate = .data) := by
  cases hpure : isPure i with
  | true => exact absurd h (exec_ne_fault_of_pure hpure s r)
  | false =>
    cases i with
    | prsInit m =>
      cases hm : modeOf m with
      | none => rw [exec_init_of_modeOf_none hm] at h; cases h
      | some mode => rw [exec_init_of_modeOf_some hm] at h; cases h
    | prsReset =>
      cases hg : parserGuard s with
      | none => rw [exec_reset_running (parserGuard_none_iff.1 hg)] at h; cases h
      | some g => rw [exec_reset_guarded hg] at h; cases h
    | prsFeed b =>
      refine ⟨b, rfl, ?_⟩
      cases hg : parserGuard s with
      | some g => rw [exec_feed_guarded hg] at h; cases h
      | none =>
        have hr := parserGuard_none_iff.1 hg
        refine ⟨hr, ?_⟩
        cases hp : s.pstate with
        | notInCommand => rw [exec_feed_notInCommand hr hp] at h; cases h
        | preamble => rw [exec_feed_preamble hr hp] at h; cases h
        | startDelimiter => rw [exec_feed_startDelimiter hr hp] at h; cases h
        | address => exact .inl rfl
        | command => rw [exec_feed_command hr hp] at h; cases h
        | dataLength => rw [exec_feed_dataLength hr hp] at h; cases h
        | data => exact .inr rfl
        | checksum => rw [exec_feed_checksum hr hp] at h; cases h
    | _ => cases hpure

theorem feedAddress_stop {s : State} (b : Byte) (h : 5 ≤ s.aIdx.toNat) :
    feedAddress b s = .fault .addressIndexOutOfRange := by
  simp only [feedAddress, setAddrByte_none b (by omega : ¬s.aIdx.toNat < 5)]

theorem feedData_stop {s : State} (b : Byte) (hbyte : ¬(isResponse s.fDelim = true ∧ s.dIdx.toNat < 2))
    (hlen : s.dataLen.toNat = 255) : feedData b s = .fault .bufferIndexOutOfRange := by
  rcases feedData_cases b s with ⟨hresp, hi, -⟩ | ⟨-, hlt, -⟩ | ⟨-, -, e⟩
  · exact absurd ⟨hresp, hi⟩ hbyte
  · omega
  · exact e

/-- R49 (c): `f_addr` has a byte for every position the invariant allows. -/
theorem ParserInv.aIdx_lt {s : State} (h : ParserInv s) (hp : s.pstate = .address) : s.aIdx.toNat < 5 :=
  (h.inAddress hp).trans_le (kindLen_le_five s.fKind)

/-- R49 (d): so does `buf`, since the payload ends before the data length does. -/
theorem ParserInv.dataLen_lt {s : State} (h : ParserInv s) (hp : s.pstate = .data) : s.dataLen.toNat < 255 := by
  obtain ⟨hlt, -, hsum, -⟩ := h.inData hp
  omega

/-- Settles O35: the two stops by their index, the invariant's bounds on both indices, and the inversion of a
stop. -/
theorem outOfRangeIndexStops : Obligations.OutOfRangeIndexStops := by
  intro s b hr
  refine ⟨fun hp hi => ?_, fun hp hbyte hlen => ?_, fun i r h => ?_⟩
  · refine ⟨(exec_feed_address hr hp b).trans (feedAddress_stop b hi), fun h => ?_⟩
    have hlt := h.aIdx_lt hp
    omega
  · rw [← isResponse_iff] at hbyte
    refine ⟨(exec_feed_data hr hp b).trans (feedData_stop b hbyte hlen), fun h => ?_⟩
    have hlt := h.dataLen_lt hp
    omega
  · obtain ⟨c, hi, -, hp⟩ := exec_fault_cases h
    exact ⟨⟨c, hi⟩, hp⟩

end Sys2Proof.Machine
end

section
/-!
PROOFS. The operation word (spec/30_encoding.md R81 to R83, R106, R112): the decoder row by row of the table of
R82, and what follows for words that are encoded, that carry an unused immediate, or that are in no row.
-/
namespace Sys2Proof

/-- A select code of the table names an operation. -/
theorem decodeOp_of_mem {op : Byte} (h : op ∈ selectCodes) (imm : Byte) (o : OperandLanes) :
    ∃ i, decodeOp op imm o = .instr i := by
  simp only [selectCodes, List.mem_cons, List.not_mem_nil, or_false] at h
  rcases h with rfl | rfl | rfl | rfl | rfl | rfl | rfl | rfl | rfl | rfl | rfl | rfl | rfl | rfl | rfl | rfl <;>
    exact ⟨_, rfl⟩

/-- Any other code is illegal (R106): each row the decoder could match names a code of the table. -/
theorem decodeOp_of_not_mem {op : Byte} (h : op ∉ selectCodes) (imm : Byte) (o : OperandLanes) :
    decodeOp op imm o = .illegalOp op := by
  have hrow : op.toNat ∉ selectCodes.map BitVec.toNat := fun hm => by
    obtain ⟨code, hcode, heq⟩ := List.mem_map.1 hm
    exact h (BitVec.eq_of_toNat_eq heq ▸ hcode)
  unfold decodeOp
  split
  case h_17 => rfl
  all_goals
    next hop => exact absurd (by rw [hop]; decide) hrow

/-- The byte numbers that are select codes are the numbers of the sixteen codes, each once. -/
theorem filter_selectCode_perm :
    ((List.range 256).filter fun n => selectCodes.contains (BitVec.ofNat 8 n)).Perm
      (selectCodes.map BitVec.toNat) := by
  refine (List.perm_ext_iff_of_nodup (List.nodup_range.filter _) (by decide)).2 fun n => ?_
  simp only [List.mem_filter, List.mem_range, List.contains_iff_mem, List.mem_map]
  constructor
  · rintro ⟨hn, hcode⟩
    exact ⟨_, hcode, Nat.mod_eq_of_lt hn⟩
  · rintro ⟨code, hcode, rfl⟩
    exact ⟨code.isLt, by rwa [BitVec.ofNat_toNat, BitVec.setWidth_eq]⟩

/-- R106: the other 240 byte numbers are illegal. -/
theorem illegalOp_count :
    ((List.range 256).filter fun n => !selectCodes.contains (BitVec.ofNat 8 n)).length = 240 := by
  have hsum := List.length_eq_length_filter_add (l := List.range 256)
    fun n => selectCodes.contains (BitVec.ofNat 8 n)
  have hcodes : _ = 16 := filter_selectCode_perm.length_eq
  rw [hcodes, List.length_range] at hsum
  omega

/-- The select codes whose operation uses `imm` (R82, R109). -/
def immCodes : List Byte := [0x00, 0x08, 0x12, 0x20, 0x22]

/-- The eleven other select codes of the table. -/
theorem selectCodes_filter_immCodes :
    selectCodes.filter (· ∉ immCodes) =
      [0x01, 0x02, 0x09, 0x10, 0x11, 0x21, 0x30, 0x31, 0x40, 0x41, 0x42] := by decide

theorem decodeOp_imm_irrelevant {op : Byte} (h : op ∉ immCodes) (imm imm' : Byte) (o : OperandLanes) :
    decodeOp op imm o = decodeOp op imm' o := by
  by_cases hm : op ∈ selectCodes
  · have hrow : op ∈ selectCodes.filter (· ∉ immCodes) := List.mem_filter.2 ⟨hm, by simpa using h⟩
    simp only [selectCodes_filter_immCodes, List.mem_cons, List.not_mem_nil, or_false] at hrow
    rcases hrow with rfl | rfl | rfl | rfl | rfl | rfl | rfl | rfl | rfl | rfl | rfl <;> rfl
  · rw [decodeOp_of_not_mem hm, decodeOp_of_not_mem hm]

/-- R112: no operation word selects a wire-format row. -/
theorem decodeOp_ne_decodeWire (op imm : Byte) (o : OperandLanes) (d : WireDatum) :
    decodeOp op imm o ≠ .instr (decodeWire d) := by
  unfold decodeOp
  split <;> cases d <;> exact nofun

/-- Settles O2: an operation is the row its select code names, a wire format its tagged datum. -/
theorem decodeOfEncode : Obligations.DecodeOfEncode := by
  intro i
  cases i with
  | wireDelimiter | wireShortAddress | wireLongAddress | wireHartIpHeader | wirePackedGroup => rfl
  | _ => exact decode_opWord _ _ _

/-- Settles O3: words with one `op` differ in the immediate alone, which eleven rows do not read. -/
theorem ignoredImmediateHasNoEffect : Obligations.IgnoredImmediateHasNoEffect := by
  refine ⟨fun op imm => ⟨opByte_opWord op imm, immByte_opWord op imm⟩, fun w w' o hop himm => ?_⟩
  show decodeOp (opByte w) (immByte w) o = decodeOp (opByte w') (immByte w') o
  rw [← hop]
  exact decodeOp_imm_irrelevant himm _ _ o

/-- Settles O1: each word is the select code and the immediate it is written from. -/
theorem sampleWordsDecode : Obligations.SampleWordsDecode := by
  intro o
  have row (op imm : Byte) : decode (.op (opWord op imm) o) = decodeOp op imm o := decode_opWord op imm o
  exact ⟨row 0x00 0x05, row 0x01 0x00, row 0x02 0x00, row 0x08 0x86, row 0x09 0x00, row 0x10 0x00,
    row 0x10 0xFF, row 0x11 0x00, row 0x12 0xCD, row 0x20 0x01, row 0x21 0xA7, row 0x22 0xFF, row 0x30 0x00,
    row 0x31 0x00, row 0x40 0x00, row 0x41 0x00, row 0x42 0x00, row 0x03 0x00, row 0x0A 0x00, row 0x13 0x00,
    row 0x23 0x00, row 0x32 0x00, row 0x43 0x00, row 0x50 0x00, row 0xFF 0x22⟩

namespace Machine

theorem step_of_decode_illegalOp {s : State} {p : PortInput} {rest : List PortInput} {op : Byte}
    (hport : s.inputs = p :: rest) (hdec : decode p = .illegalOp op) :
    step s = .next (execIllegalOp op { s with inputs := rest }) := by
  simp only [step, fetch, hport, hdec]

/-- Settles O4: an op outside the table decodes to an illegal op, whose fault latches nothing. -/
theorem illegalOpFaults : Obligations.IllegalOpFaults := by
  refine ⟨fun s w o rest hport hop => ?_, fun w o hop => decodeOp_of_mem hop _ o, illegalOp_count⟩
  exact ⟨_, step_of_decode_illegalOp hport (decodeOp_of_not_mem hop _ o), takeFault_plainFault rfl _ _⟩

end Machine

end Sys2Proof
end

section
/-!
PROOFS. The fixed layouts in numbers: the delimiter byte (spec/30_encoding.md R88) and the 16-bit fields of the
HART-IP header (R98), and the wire-format rows they are read by (R112).
-/
namespace Sys2Proof.Machine

section
variable (d : Byte)

@[simp] theorem delimFields_addrType_toNat : (delimFields d).addrType.toNat = d.toNat / 128 := by
  rw [delimFields, BitVec.extractLsb'_toNat, Nat.shiftRight_eq_div_pow]
  omega

@[simp] theorem delimFields_exp_toNat : (delimFields d).exp.toNat = d.toNat / 32 % 4 := by
  rw [delimFields, BitVec.extractLsb'_toNat, Nat.shiftRight_eq_div_pow]

@[simp] theorem delimFields_phys_toNat : (delimFields d).phys.toNat = d.toNat / 8 % 4 := by
  rw [delimFields, BitVec.extractLsb'_toNat, Nat.shiftRight_eq_div_pow]

@[simp] theorem delimFields_ftype_toNat : (delimFields d).ftype.toNat = d.toNat % 8 := by
  rw [delimFields, BitVec.extractLsb'_toNat, Nat.shiftRight_eq_div_pow]
  omega

/-- R88: the four fields are the whole byte. -/
theorem toNat_eq_delimFields :
    d.toNat = (delimFields d).addrType.toNat * 128 + (delimFields d).exp.toNat * 32 +
      (delimFields d).phys.toNat * 8 + (delimFields d).ftype.toNat := by
  simp only [delimFields_addrType_toNat, delimFields_exp_toNat, delimFields_phys_toNat,
    delimFields_ftype_toNat]
  omega

end

@[simp] theorem be16_toNat (hi lo : Byte) : (be16 hi lo).toNat = hi.toNat * 256 + lo.toNat :=
  opWord_toNat hi lo

/-- The two bytes of a 16-bit field are its halves (R14). -/
theorem hi8_mul_add_lo8 (v : Word16) : (hi8 v).toNat * 256 + (lo8 v).toNat = v.toNat := by
  rw [hi8, lo8, BitVec.extractLsb'_toNat, BitVec.extractLsb'_toNat, Nat.shiftRight_eq_div_pow]
  omega

/-- Settles O59: each row delivers its reading, and no operation word decodes to a row. -/
theorem wireFormatReadings : Obligations.WireFormatReadings := by
  intro s b0 b1 b2 b3 b4 x
  have noWord (w : Word16) (o : OperandLanes) (d : WireDatum) : decode (.op w o) ≠ .instr (decodeWire d) :=
    decodeOp_ne_decodeWire _ _ o d
  refine ⟨⟨_, delimFields b0, rfl, deliver_pureOk _ s, toNat_eq_delimFields b0⟩,
    ⟨_, rfl, deliver_pureOk _ s⟩, ⟨_, rfl, deliver_pureOk _ s⟩,
    ⟨_, headerOf x, rfl, deliver_pureOk _ s, rfl, rfl, rfl, rfl, be16_toNat _ _, be16_toNat _ _⟩,
    ⟨_, _, rfl, deliver_pureOk _ s, rfl⟩, fun w o => ?_⟩
  exact ⟨noWord w o (.delimiter b0), noWord w o (.shortAddress b0), noWord w o (.longAddress b0 b1 b2 b3 b4),
    noWord w o (.hartIpHeader x), noWord w o (.packedGroup b0 b1 b2)⟩

end Sys2Proof.Machine
end

section
/-!
PROOFS. The pseudo-operations (spec/30_encoding.md R111): what PRS_FEEDS does with its first byte, that it ends
from every state of the invariant (spec/10_state.md R49), and the range of HIP_WRAP (spec/90_conflicts.md C13).
-/
namespace Sys2Proof.Machine

/-! ### PRS_FEEDS -/

theorem outcomeOk_of_ok {t : State} {v : Result} (h : t.result = some (.ok v)) : outcomeOk t = true := by
  simp only [outcomeOk, h]

theorem outcomeOk_of_fault {t : State} {c : FaultCode} {info : Option Nat}
    (h : t.result = some (.fault c info)) : outcomeOk t = false := by
  simp only [outcomeOk, h]

/-- R240, R253: a feed ends `ok`, or in a fault and then without an event. -/
theorem FeedStep.outcome {b : Byte} {s t : State} (f : FeedStep b s t) :
    (∃ v, t.result = some (.ok v)) ∨ ∃ c info, t.result = some (.fault c info) ∧ t.event = none := by
  cases f with
  | guarded => exact .inr ⟨_, _, rfl, rfl⟩
  | dataLength =>
    rcases feedDataLength_cases b s with ⟨-, -, e⟩ | ⟨-, e⟩ <;> rw [e]
    · exact .inr ⟨_, _, rfl, rfl⟩
    · exact .inl ⟨_, rfl⟩
  | search | count | delimiter | address | command | rcByte | payload | checksum => exact .inl ⟨_, rfl⟩

/-- A state of the invariant has a next state for every byte: the two indices are in range. -/
theorem ParserInv.exec_feed_next {s : State} (h : ParserInv s) (b : Byte) :
    ∃ t, exec (.prsFeed b) s = .next t := by
  cases hg : parserGuard s with
  | some g => exact ⟨_, exec_feed_guarded hg b⟩
  | none =>
    have hr := parserGuard_none_iff.1 hg
    cases hp : s.pstate with
    | notInCommand => exact ⟨_, exec_feed_notInCommand hr hp b⟩
    | preamble => exact ⟨_, exec_feed_preamble hr hp b⟩
    | startDelimiter => exact ⟨_, exec_feed_startDelimiter hr hp b⟩
    | address =>
      obtain ⟨q, -, e⟩ := feedAddress_next b (h.aIdx_lt hp)
      exact ⟨_, (exec_feed_address hr hp b).trans e⟩
    | command => exact ⟨_, exec_feed_command hr hp b⟩
    | dataLength => exact ⟨_, exec_feed_dataLength hr hp b⟩
    | data =>
      rcases feedData_cases b s with ⟨-, -, e⟩ | ⟨-, -, e⟩ | ⟨-, hfull, -⟩
      · exact ⟨_, (exec_feed_data hr hp b).trans e⟩
      · exact ⟨_, (exec_feed_data hr hp b).trans e⟩
      · exact absurd (h.dataLen_lt hp) hfull
    | checksum => exact ⟨_, exec_feed_checksum hr hp b⟩

section
variable {s t : State} {b : Byte} (h : exec (.prsFeed b) s = .next t)
include h

theorem runFeeds_cons_of_fault {c : FaultCode} {info : Option Nat} (hres : t.result = some (.fault c info))
    (bs : List Byte) : runFeeds s (b :: bs) = .next { final := t, events := [], allOk := false } := by
  have hevent : t.event = none := by
    rcases (feedStep_of_exec h).outcome with ⟨v, hv⟩ | ⟨-, -, -, he⟩
    · rw [hres] at hv; cases hv
    · exact he
  have hstop := runOps_cons_stop (is := prsFeeds bs) h (outcomeOk_of_fault hres)
  rwa [hevent] at hstop

theorem runFeeds_cons_of_ok {v : Result} (hres : t.result = some (.ok v)) {bs : List Byte} {r : OpsRun}
    (hrest : runFeeds t bs = .next r) :
    runFeeds s (b :: bs) = .next { r with events := t.event.toList ++ r.events } :=
  runOps_cons_go h (outcomeOk_of_ok hres) hrest

end

/-- PRS_FEEDS ends from every state of the invariant, in one. -/
theorem ParserInv.runFeeds_next {s : State} (h : ParserInv s) (bs : List Byte) :
    ∃ r, runFeeds s bs = .next r ∧ ParserInv r.final := by
  induction bs generalizing s with
  | nil => exact ⟨_, rfl, h⟩
  | cons b bs ih =>
    obtain ⟨t, ht⟩ := h.exec_feed_next b
    have hinv := h.of_exec ht
    rcases (feedStep_of_exec ht).outcome with ⟨v, hv⟩ | ⟨c, info, hf, -⟩
    · obtain ⟨r, hr, hfinal⟩ := ih hinv
      exact ⟨_, runFeeds_cons_of_ok ht hv hr, hfinal⟩
    · exact ⟨_, runFeeds_cons_of_fault ht hf bs, hinv⟩

/-! ### HIP_WRAP -/

theorem exec_hipEncode_of_le {h : HipHeader} (hcount : 8 ≤ h.byteCount.toNat) (s : State) :
    exec (.hipEncode h) s = .next (deliver (.bytes (headerBytes h)) s) :=
  if_neg (not_lt.2 hcount)

/-- The header of HIP_WRAP, for a body of `n` bytes (R111). -/
def wrapHeader (c : Config) (ty id st : Byte) (seq : Word16) (n : Nat) : HipHeader :=
  { version := c.hipVersion, msgType := ty, msgId := id, status := st, seq := seq,
    byteCount := BitVec.ofNat 16 (8 + n) }

section
variable (c : Config) (ty id st : Byte) (seq : Word16) {n : Nat}

theorem hipWrap_of_le (hn : n ≤ 65527) :
    hipWrap c ty id st seq n = some (.hipEncode (wrapHeader c ty id st seq n)) :=
  if_pos hn

theorem hipWrap_of_lt (hn : 65527 < n) : hipWrap c ty id st seq n = none :=
  if_neg (not_le.2 hn)

/-- C13: up to 65527 the count of header and body fits its 16 bits. -/
theorem wrapHeader_byteCount_toNat (hn : n ≤ 65527) :
    (wrapHeader c ty id st seq n).byteCount.toNat = 8 + n :=
  Nat.mod_eq_of_lt (by omega)

end

/-- Settles O60: the abbreviations by unfolding, PRS_FEEDS by its first byte and by induction on the bytes,
HIP_WRAP by the count that fits. -/
theorem pseudoOperations : Obligations.PseudoOperations := by
  refine ⟨rfl, rfl, fun bs k => List.getElem?_map, fun _ _ => rfl, fun _ => rfl,
    fun _ _ _ bs _ _ h hres => runFeeds_cons_of_fault h hres bs,
    fun _ _ _ _ _ _ h hres hrest => runFeeds_cons_of_ok h hres hrest,
    fun _ bs h => h.runFeeds_next bs, fun c ty id st seq n hn => ?_,
    fun c ty id st seq _ hn => hipWrap_of_lt c ty id st seq hn,
    fun pre a cmd data => ⟨_, rfl, rfl, rfl, rfl, rfl, rfl, ?_⟩⟩
  · have hcount := wrapHeader_byteCount_toNat c ty id st seq hn
    refine ⟨_, hipWrap_of_le c ty id st seq hn, fun s => ⟨_, _, _, _, _,
      exec_hipEncode_of_le (by omega) s, deliver_pureOk _ s, ?_, hi8_mul_add_lo8 seq⟩⟩
    exact (hi8_mul_add_lo8 _).trans hcount
  · cases a <;> rfl

end Sys2Proof.Machine
end

section
/-!
PROOFS. The address unit and the delimiter unit (spec/40_address_delimiter.md): the address bytes and the
delimiter byte in numbers, and that assembling and splitting a delimiter are inverse to each other (R126 (a)).
-/
namespace Sys2Proof

/-- Bits set above the width of a smaller number add to it. -/
theorem toNat_or_of_dvd {k : Nat} {x y : Byte} (hx : 2 ^ k ∣ x.toNat) (hy : y.toNat < 2 ^ k) :
    (x ||| y).toNat = x.toNat + y.toNat := by
  obtain ⟨q, hq⟩ := hx
  rw [BitVec.toNat_or, hq, Nat.two_pow_add_eq_or_of_lt hy]

theorem DelimFields.ext_toNat {f g : DelimFields} (haddr : f.addrType.toNat = g.addrType.toNat)
    (hexp : f.exp.toNat = g.exp.toNat) (hphys : f.phys.toNat = g.phys.toNat)
    (hftype : f.ftype.toNat = g.ftype.toNat) : f = g := by
  cases f
  cases g
  rw [DelimFields.mk.injEq]
  exact ⟨BitVec.eq_of_toNat_eq haddr, BitVec.eq_of_toNat_eq hphys, BitVec.eq_of_toNat_eq hftype,
    BitVec.eq_of_toNat_eq hexp⟩

namespace Machine

/-! ### Addresses -/

section
variable (c : Config) {p : Byte}

theorem shortAddrMask_toNat : (shortAddrMask c).toNat = 16 * c.shortAddrMaskHi.toNat := by
  have h : (shortAddrMask c).toNat = c.shortAddrMaskHi.toNat <<< 4 ||| 0 := BitVec.toNat_append _ _
  rw [h, Nat.or_zero, Nat.shiftLeft_eq, Nat.mul_comm]

/-- R120: the polling address of a short address is the operand. -/
theorem pollingAddress_shortAddrMask_or (hp : p.toNat ≤ 15) :
    (pollingAddress (shortAddrMask c ||| p)).toNat = p.toNat := by
  have hmask : 2 ^ 4 ∣ (shortAddrMask c).toNat := ⟨_, shortAddrMask_toNat c⟩
  rw [pollingAddress, BitVec.extractLsb'_toNat, Nat.shiftRight_zero, toNat_or_of_dvd hmask (by omega),
    shortAddrMask_toNat]
  omega

end

/-- R121: bit 7 of the manufacturer byte, clear or already set. -/
theorem or_bit7_toNat (mfr : Byte) :
    (mfr ||| 0x80).toNat = if mfr.toNat < 128 then mfr.toNat + 128 else mfr.toNat := by
  split
  · next hclear =>
    rw [BitVec.or_comm, toNat_or_of_dvd (k := 7) ⟨1, rfl⟩ hclear]
    exact Nat.add_comm _ _
  · next hset =>
    have hsplit : mfr = 0x80 ||| (mfr - 0x80) := by
      apply BitVec.eq_of_toNat_eq
      have hsub : (mfr - 0x80).toNat = mfr.toNat - 128 := by bv_omega
      rw [toNat_or_of_dvd (k := 7) ⟨1, rfl⟩ (by omega), hsub]
      show mfr.toNat = 128 + (mfr.toNat - 128)
      omega
    rw [hsplit, BitVec.or_comm, ← BitVec.or_assoc, BitVec.or_self]

theorem exec_addrMkShort_of_le {p : Byte} (hp : p.toNat ≤ 15) (s : State) :
    exec (.addrMkShort p) s = .next (deliver (.address (.short (shortAddrMask s.cfg ||| p))) s) :=
  if_neg (not_lt.2 hp)

theorem exec_addrMkShort_of_lt {p : Byte} (hp : 15 < p.toNat) (s : State) :
    exec (.addrMkShort p) s = .next (takeFault .invalidArgument (some p.toNat) s) :=
  if_pos hp

theorem exec_addrMkLong_of_length_ne (mfr dtype : Byte) {id : List Byte} (hid : id.length ≠ 3) (s : State) :
    exec (.addrMkLong mfr dtype id) s = .next (takeFault .invalidArgument (some id.length) s) := by
  simp only [exec, execAddrMkLong]
  split
  · exact absurd rfl hid
  · rfl

/-- Settles O13: the operand is tested against 15, and the mask's lower four bits are zero. -/
theorem addrMkShortResult : Obligations.AddrMkShortResult := by
  intro s p o
  refine ⟨decode_opWord _ _ o, fun hp => ?_, fun hp => ?_⟩
  · refine ⟨_, _, exec_addrMkShort_of_le hp s, deliver_pureOk _ s, rfl,
      pollingAddress_shortAddrMask_or s.cfg hp, ?_, ?_, ?_⟩
    · rintro rfl
      exact BitVec.or_zero
    · rintro hmask rfl
      exact BitVec.or_zero.trans hmask
    · rintro hmask rfl
      rw [hmask]
      rfl
  · exact ⟨_, exec_addrMkShort_of_lt hp s, takeFault_plainFault rfl _ s⟩

/-- Settles O14: an id of three bytes is delivered behind the first byte with bit 7 set, any other faults. -/
theorem addrMkLongResult : Obligations.AddrMkLongResult := by
  intro s mfr dtype id o imm
  refine ⟨decode_opWord _ _ o, fun i0 i1 i2 hid => ?_, fun hid => ?_⟩
  · subst hid
    exact ⟨_, _, rfl, deliver_pureOk _ s, or_bit7_toNat mfr⟩
  · exact ⟨_, exec_addrMkLong_of_length_ne mfr dtype hid s, takeFault_plainFault rfl _ s⟩

/-- Settles O15: the bytes delivered are `addrBytes`, one equation for each variant. -/
theorem addrSerResult : Obligations.AddrSerResult := by
  intro s a o imm
  refine ⟨decode_opWord _ _ o, _, addrBytes a, rfl, deliver_pureOk _ s, addrBytes_length a, ?_, ?_⟩
  · rintro b rfl
    rfl
  · rintro b0 b1 b2 b3 b4 rfl
    rfl

/-! ### The delimiter byte -/

/-- A field shifted to its place in the byte loses no bit. -/
theorem toNat_setWidth_shiftLeft {w k : Nat} (x : BitVec w) (h : w + k ≤ 8) :
    (x.setWidth 8 <<< k).toNat = x.toNat * 2 ^ k := by
  have hlt : x.toNat * 2 ^ k < 2 ^ 8 := calc
    x.toNat * 2 ^ k < 2 ^ w * 2 ^ k := Nat.mul_lt_mul_of_pos_right x.isLt (by positivity)
    _ = 2 ^ (w + k) := (pow_add 2 w k).symm
    _ ≤ 2 ^ 8 := Nat.pow_le_pow_right (by decide) h
  rw [BitVec.toNat_shiftLeft, BitVec.toNat_setWidth_of_le (by omega), Nat.shiftLeft_eq, Nat.mod_eq_of_lt hlt]

section
variable (f : DelimFields)

/-- R88, R125: the fields do not overlap, so the byte is their weighted sum. -/
theorem delimByte_toNat :
    (delimByte f).toNat =
      f.addrType.toNat * 128 + f.exp.toNat * 32 + f.phys.toNat * 8 + f.ftype.toNat := by
  have ha : (f.addrType.setWidth 8 <<< 7).toNat = f.addrType.toNat * 128 :=
    toNat_setWidth_shiftLeft f.addrType (by decide)
  have he : (f.exp.setWidth 8 <<< 5).toNat = f.exp.toNat * 32 := toNat_setWidth_shiftLeft f.exp (by decide)
  have hp : (f.phys.setWidth 8 <<< 3).toNat = f.phys.toNat * 8 := toNat_setWidth_shiftLeft f.phys (by decide)
  have ht : (f.ftype.setWidth 8).toNat = f.ftype.toNat := BitVec.toNat_setWidth_of_le (by decide)
  have hae := toNat_or_of_dvd (k := 7) (x := f.addrType.setWidth 8 <<< 7) (y := f.exp.setWidth 8 <<< 5)
    (by omega) (by omega)
  have haep := toNat_or_of_dvd (k := 5) (y := f.phys.setWidth 8 <<< 3)
    (x := f.addrType.setWidth 8 <<< 7 ||| f.exp.setWidth 8 <<< 5) (by omega) (by omega)
  rw [delimByte, toNat_or_of_dvd (k := 3) (by omega) (by omega), haep, hae, ha, he, hp, ht]

/-- R126 (a), from the byte: the four fields are all of it. -/
@[simp] theorem delimByte_delimFields (d : Byte) : delimByte (delimFields d) = d :=
  BitVec.eq_of_toNat_eq ((delimByte_toNat _).trans (toNat_eq_delimFields d).symm)

/-- R126 (a), from the fields: each is read where it was written. -/
@[simp] theorem delimFields_delimByte : delimFields (delimByte f) = f := by
  apply DelimFields.ext_toNat
  · rw [delimFields_addrType_toNat, delimByte_toNat]
    omega
  · rw [delimFields_exp_toNat, delimByte_toNat]
    omega
  · rw [delimFields_phys_toNat, delimByte_toNat]
    omega
  · rw [delimFields_ftype_toNat, delimByte_toNat]
    omega

end

section
variable {s t : State} {d : Byte} {f : DelimFields}

theorem eq_delimFields_of_exec (h : exec (.delimDec d) s = .next t)
    (hres : t.result = some (.ok (.fields f))) : f = delimFields d := by
  cases h
  cases hres
  rfl

theorem eq_delimByte_of_exec (h : exec (.delimEnc f) s = .next t)
    (hres : t.result = some (.ok (.byte d))) : d = delimByte f := by
  cases h
  cases hres
  rfl

end

theorem exec_delimEnc_delimFields (d : Byte) (s : State) :
    exec (.delimEnc (delimFields d)) s = .next (deliver (.byte d) s) := by
  rw [exec, execDelimEnc, delimByte_delimFields]

theorem exec_delimDec_delimByte (f : DelimFields) (s : State) :
    exec (.delimDec (delimByte f)) s = .next (deliver (.fields f) s) := by
  rw [exec, execDelimDec, delimFields_delimByte]

/-- Settles O16: the fields delivered, each read by division. -/
theorem delimDecResult : Obligations.DelimDecResult := fun s d o =>
  ⟨decode_opWord _ _ o, _, _, rfl, deliver_pureOk _ s, delimFields_addrType_toNat d, delimFields_exp_toNat d,
    delimFields_phys_toNat d, delimFields_ftype_toNat d⟩

/-- Settles O17: the byte delivered is the weighted sum of the fields. -/
theorem delimEncResult : Obligations.DelimEncResult := fun s f o _ =>
  ⟨decode_opWord _ _ o, _, _, rfl, deliver_pureOk _ s, delimByte_toNat f⟩

/-- Settles O18: what one operation delivered, the other takes back to the first operand. -/
theorem delimiterViewRoundTrip : Obligations.DelimiterViewRoundTrip := by
  refine ⟨fun s t d f h hres => ?_, fun s t f d h hres => ?_⟩
  · obtain rfl := eq_delimFields_of_exec h hres
    exact ⟨_, exec_delimEnc_delimFields d t, deliver_pureOk _ t⟩
  · obtain rfl := eq_delimByte_of_exec h hres
    exact ⟨_, exec_delimDec_delimByte f t, deliver_pureOk _ t⟩

end Machine

end Sys2Proof
end

section
/-!
PROOFS. The frame codec (spec/41_frame_codec.md R140 to R150): the two faults and the success every operation of
the unit has, the bytes FRM_ENCODE delivers, and the checksum under an exclusive-or of one byte.
-/
namespace Sys2Proof.Machine

/-! ### The two tests and the success (R143) -/

section
variable {f : Frame} (r : Result) (s : State)

theorem codecOp_badRcLength (h0 : f.rc.length ≠ 0) (h2 : f.rc.length ≠ 2) :
    PlainFault s (codecOp f r s) .encodeBadRcLength (some f.rc.length) := by
  have htest : encodeFault f = some (.encodeBadRcLength, f.rc.length) := if_pos ⟨h0, h2⟩
  simp only [codecOp, htest]
  exact takeFault_plainFault rfl _ s

theorem codecOp_lengthOverflow (hrc : f.rc.length = 0 ∨ f.rc.length = 2)
    (hlen : 255 < f.rc.length + f.data.length) :
    PlainFault s (codecOp f r s) .encodeLengthOverflow (some (f.rc.length + f.data.length)) := by
  have htest : encodeFault f = some (.encodeLengthOverflow, f.rc.length + f.data.length) :=
    (if_neg (by omega)).trans (if_pos hlen)
  simp only [codecOp, htest]
  exact takeFault_plainFault rfl _ s

theorem codecOp_pureOk (h : encodable f = true) : PureOk s (codecOp f r s) r := by
  rw [codecOp_of_encodable h]
  exact deliver_pureOk r s

end

/-- R149 (b): a length that fits is the data-length byte. -/
theorem lengthByte_toNat {f : Frame} (hlen : f.rc.length + f.data.length ≤ 255) :
    (BitVec.ofNat 8 (frameDataLen f)).toNat = f.rc.length + f.data.length :=
  Nat.mod_eq_of_lt (Nat.lt_succ_of_le hlen)

/-- Settles O19: the two tests in their order, else the layout with the running exclusive-or. -/
theorem frmEncodeResult : Obligations.FrmEncodeResult := by
  intro s f o imm
  refine ⟨decode_opWord _ _ o, fun h0 h2 => ⟨_, rfl, codecOp_badRcLength _ s h0 h2⟩,
    fun hrc hlen => ⟨_, rfl, codecOp_lengthOverflow _ s hrc hlen⟩,
    fun hrc hlen => ⟨_, frameBody f, _, rfl, lengthByte_toNat hlen, rfl, ?_⟩⟩
  rw [foldl_xor_zero]
  exact codecOp_pureOk _ s ((encodable_iff f).2 ⟨hrc, hlen⟩)

/-- Settles O20: the two tests, else the checksum; neither `pre` nor `cks` is in the body. -/
theorem frmCksumResult : Obligations.FrmCksumResult := by
  intro s f o imm
  refine ⟨decode_opWord _ _ o, fun h0 h2 => ⟨_, rfl, codecOp_badRcLength _ s h0 h2⟩,
    fun hrc hlen => ⟨_, rfl, codecOp_lengthOverflow _ s hrc hlen⟩,
    fun hrc hlen => ⟨_, _, rfl, lengthByte_toNat hlen, ?_⟩, fun _ _ => rfl⟩
  rw [foldl_xor_zero]
  exact codecOp_pureOk _ s ((encodable_iff f).2 ⟨hrc, hlen⟩)

/-- Settles O21: the two tests, else the comparison with the received byte; `cks` is not in the body. -/
theorem frmValidateResult : Obligations.FrmValidateResult := by
  intro s f rx o
  refine ⟨decode_opWord _ _ o, fun h0 h2 => ⟨_, rfl, codecOp_badRcLength _ s h0 h2⟩,
    fun hrc hlen => ⟨_, rfl, codecOp_lengthOverflow _ s hrc hlen⟩,
    fun hrc hlen => ⟨_, _, rfl, lengthByte_toNat hlen, ?_⟩, fun _ => rfl⟩
  rw [foldl_xor_zero]
  exact codecOp_pureOk _ s ((encodable_iff f).2 ⟨hrc, hlen⟩)

/-! ### The bytes FRM_ENCODE delivers -/

theorem eq_frameBytes_of_exec {s t : State} {f : Frame} {out : List Byte} (hf : encodable f = true)
    (h : exec (.frmEncode f) s = .next t) (hres : t.result = some (.ok (.bytes out))) :
    out = frameBytes f := by
  rw [exec, execFrmEncode, codecOp_of_encodable hf] at h
  cases h
  cases hres
  rfl

theorem frameBytes_drop_pre (f : Frame) : (frameBytes f).drop f.pre = frameBody f ++ [frameCks f] := by
  rw [frameBytes, List.append_assoc]
  exact List.drop_left' List.length_replicate

theorem frameBytes_getLast? (f : Frame) : (frameBytes f).getLast? = some (frameCks f) :=
  List.getLast?_concat

/-- The checksum byte closes the exclusive-or. -/
theorem xor8_frameBody_frameCks (f : Frame) : xor8 (frameBody f ++ [frameCks f]) = 0 := by
  simp [xor8_append, frameCks]

section
variable {f : Frame} {rx : Byte} (hf : encodable f = true)
include hf

theorem exec_frmValidate_of_eq (hrx : frameCks f = rx) (s : State) :
    exec (.frmValidate f rx) s = .next (deliver (.bit 1) s) := by
  rw [exec, execFrmValidate, codecOp_of_encodable hf, if_pos hrx]

theorem exec_frmValidate_of_ne (hrx : frameCks f ≠ rx) (s : State) :
    exec (.frmValidate f rx) s = .next (deliver (.bit 0) s) := by
  rw [exec, execFrmValidate, codecOp_of_encodable hf, if_neg hrx]

end

/-- Settles O22: the output without the preamble is the body and its checksum byte. -/
theorem checksumRoundTrip : Obligations.ChecksumRoundTrip := by
  intro s t f out hf h hres
  obtain rfl := eq_frameBytes_of_exec hf h hres
  rw [frameBytes_drop_pre, List.dropLast_concat]
  exact ⟨xor8_frameBody_frameCks f, frameCks f, frameBytes_getLast? f, rfl,
    _, exec_frmValidate_of_eq hf rfl t, deliver_pureOk _ t⟩

theorem one_le_kindLen (k : AddrKind) : 1 ≤ kindLen k := by
  cases k <;> decide

/-- Settles O24: the length of the layout, with an address of 1 to 5 bytes and a payload of at most 255. -/
theorem encodedLength : Obligations.EncodedLength := by
  intro s t f out hf h hres
  obtain rfl := eq_frameBytes_of_exec hf h hres
  obtain ⟨-, hdata⟩ := (encodable_iff f).1 hf
  have hlen := frameBytes_length f
  have hlow : 1 ≤ addrLen f.addr := addrLen_eq_kindLen f.addr ▸ one_le_kindLen _
  have hhigh : addrLen f.addr ≤ 5 := addrLen_eq_kindLen f.addr ▸ kindLen_le_five _
  have hmax (he : frameExpressible s.cfg f = true) :
      (frameBytes f).length ≤ (2 ^ s.cfg.preW - 1) + 5 + 4 + 255 := by
    have hpre : f.pre < 2 ^ s.cfg.preW := of_decide_eq_true he
    omega
  refine ⟨hlen, by omega, by omega, hmax, fun he hw => ?_⟩
  have h8 := hmax he
  rwa [hw] at h8

/-! ### One flipped bit -/

/-- R149 (a): an exclusive-or into one byte of a sequence goes into its checksum. -/
theorem xor8_set_xor {x : List Byte} {i : Nat} {b : Byte} (h : x[i]? = some b) (m : Byte) :
    xor8 (x.set i (b ^^^ m)) = xor8 x ^^^ m := by
  induction x generalizing i with
  | nil => cases h
  | cons c x ih =>
    cases i with
    | zero =>
      cases h
      rw [List.set_cons_zero, xor8_cons, xor8_cons, BitVec.xor_assoc, BitVec.xor_assoc, BitVec.xor_comm m]
    | succ i => rw [List.set_cons_succ, xor8_cons, xor8_cons, ih h, BitVec.xor_assoc]

theorem xor_bit_ne_self {k : Nat} (hk : k < 8) (b : Byte) : b ^^^ (1#8 <<< k) ≠ b := by
  have hbit : ∀ k < 8, (1#8 <<< k) ≠ 0 := by decide
  intro h
  exact hbit k hk ((BitVec.xor_right_inj b).1 (h.trans BitVec.xor_zero.symm))

section
variable {f : Frame} {i : Nat}

/-- The payload is the tail of the body, and its length is what the data-length byte holds. -/
theorem frameCks_set_data {b : Byte} (h : f.data[i]? = some b) (m : Byte) :
    frameCks { f with data := f.data.set i (b ^^^ m) } = frameCks f ^^^ m := by
  simp only [frameCks, frameBody, frameDataLen, List.length_set, xor8_append, xor8_set_xor h, BitVec.xor_assoc]

theorem encodable_set_data (h : encodable f = true) (b : Byte) :
    encodable { f with data := f.data.set i b } = true := by
  simpa only [encodable_iff, List.length_set] using h

end

/-- Settles O23: the flipped bit goes into the checksum, which then differs. -/
theorem singleBitFlipDetected : Obligations.SingleBitFlipDetected := by
  intro s f k hf hk
  refine ⟨fun i b hb => ?_, fun i b hb => ⟨_, exec_frmValidate_of_ne (encodable_set_data hf _) ?_ s,
    deliver_pureOk _ s⟩, ⟨_, exec_frmValidate_of_ne hf (xor_bit_ne_self hk _).symm s, deliver_pureOk _ s⟩⟩
  · rw [xor8_set_xor hb]
    exact xor_bit_ne_self hk _
  · rw [frameCks_set_data hb]
    exact xor_bit_ne_self hk _

end Sys2Proof.Machine
end

section
/-!
PROOFS. The positions of a parser in whatever state (spec/10_state.md R49 (c) to (e)) and the bytes of the frame
under way that its registers hold: every rule of PRS_FEED that takes a byte of a frame keeps the one and appends
the byte to the other (spec/42_frame_parser.md R167 to R173).
-/
namespace Sys2Proof.Machine

/-! ### The positions -/

/-- The address and data positions fit the parser state. The part of `ParserInv` that reads neither the
parameters nor the mode, the preamble counter, the buffer or the latch. -/
structure PosInv (s : State) : Prop where
  address : AddressAt s s.pstate
  data : DataAt s s.pstate

/-- `s` with everything its positions do not read at a value the invariant allows: what is proved of
`ParserInv` then holds of the positions alone. -/
def positionsOnly (s : State) : State :=
  { s with cfg := Config.default, mode := .noPreamble, preCnt := 0, buf := [], fault := false, faultCode := 0 }

theorem PosInv.runIn {s : State} {p : PState} (h : PosInv s) (hp : s.pstate = p) (hnic : p ≠ .notInCommand)
    (hpre : p ≠ .preamble) : RunIn p (positionsOnly s) := by
  obtain ⟨haddr, hdata⟩ := h
  rw [hp] at haddr hdata
  have hcnt : CounterAt (positionsOnly s) p := by
    cases p <;> simp_all [CounterAt, positionsOnly]
  exact ⟨⟨⟨rfl, nofun⟩, (by decide : 2 ≤ Config.default.preW), rfl, Nat.zero_le _, rfl⟩, hp, hcnt, haddr, hdata⟩

/-- What the ports deliver is no part of a re-arm. -/
theorem Rearmed.deliver {s : State} (h : Rearmed s) (r : Result) : Rearmed (deliver r s) :=
  ⟨h.pstate, h.preCnt, h.aIdx, h.dIdx, h.rcLen, h.dataLen⟩

theorem Rearmed.emitComplete {s : State} (h : Rearmed s) (f : Frame) : Rearmed (emitComplete f s) :=
  ⟨h.pstate, h.preCnt, h.aIdx, h.dIdx, h.rcLen, h.dataLen⟩

theorem SameFrameRegs.deliver {s t : State} (h : SameFrameRegs s t) (r : Result) :
    SameFrameRegs s (deliver r t) :=
  ⟨h.cfg, h.fDelim, h.fKind, h.fAddr, h.fCmd, h.fLen, h.fRc, h.buf, h.bufByte, h.inputs⟩

theorem SameFrameRegs.emitComplete {s t : State} (h : SameFrameRegs s t) (f : Frame) :
    SameFrameRegs s (emitComplete f t) :=
  ⟨h.cfg, h.fDelim, h.fKind, h.fAddr, h.fCmd, h.fLen, h.fRc, h.buf, h.bufByte, h.inputs⟩

theorem posInv_of_rearmed {s : State} (h : Rearmed s) : PosInv s := by
  obtain ⟨hp, -, ha, hd, hrc, hlen⟩ := h
  split at hp <;> constructor <;> rw [hp] <;> simp [AddressAt, DataAt, ha, hd, hrc, hlen]

section
variable {s : State} (b : Byte)

/-- R173: the first byte of the data phase of a response is the code. -/
theorem storeRcByte_code (h : s.dIdx = 0) :
    storeRcByte b s = { s with fRc := ⟨b, s.fRc.status⟩, rcLen := 1 } :=
  if_pos h

/-- R173: the second is the device status. -/
theorem storeRcByte_status (h : s.dIdx ≠ 0) :
    storeRcByte b s = { s with fRc := ⟨s.fRc.code, b⟩, rcLen := 2 } :=
  if_neg h

theorem storeRcByte_positionsOnly (s : State) :
    storeRcByte b (positionsOnly s) = positionsOnly (storeRcByte b s) := by
  by_cases h : s.dIdx = 0
  · rw [storeRcByte_code b h, storeRcByte_code b (s := positionsOnly s) h]
    rfl
  · rw [storeRcByte_status b h, storeRcByte_status b (s := positionsOnly s) h]
    rfl

end

section
variable {s : State} (h : PosInv s)
include h

theorem posInv_afterAddressByte (hp : s.pstate = .address) (q : AddrRegs) : PosInv (afterAddressByte q s) := by
  have k := parserInv_afterAddressByte (h.runIn hp nofun nofun) q
  exact ⟨k.addressAt, k.dataAt⟩

theorem posInv_feedCommand (hp : s.pstate = .command) (b : Byte) : PosInv (feedCommand b s) := by
  have k := parserInv_feedCommand (h.runIn hp nofun nofun) b
  exact ⟨k.addressAt, k.dataAt⟩

theorem posInv_afterLengthByte (hp : s.pstate = .dataLength) {b : Byte}
    (hb : isResponse s.fDelim = true → b ≠ 1) : PosInv (afterLengthByte b s) := by
  have k := parserInv_afterLengthByte (h.runIn hp nofun nofun) hb
  exact ⟨k.addressAt, k.dataAt⟩

theorem posInv_storeRcByte (hp : s.pstate = .data) (b : Byte) (hresp : isResponse s.fDelim = true)
    (hidx : s.dIdx.toNat < 2) : PosInv (advanceData (storeRcByte b s)) := by
  have k := parserInv_advanceData_storeRcByte (h.runIn hp nofun nofun) b hresp hidx
  rw [storeRcByte_positionsOnly] at k
  exact ⟨k.addressAt, k.dataAt⟩

theorem posInv_afterPayloadByte (hp : s.pstate = .data) (b : Byte)
    (hbyte : ¬(isResponse s.fDelim = true ∧ s.dIdx.toNat < 2)) (hroom : s.dataLen.toNat < 255) :
    PosInv (afterPayloadByte b s) := by
  have k := parserInv_afterPayloadByte (h.runIn hp nofun nofun) b hbyte hroom
  exact ⟨k.addressAt, k.dataAt⟩

theorem PosInv.aIdx_lt (hp : s.pstate = .address) : s.aIdx.toNat < 5 :=
  (h.runIn hp nofun nofun).parserInv.aIdx_lt hp

theorem PosInv.dataLen_lt (hp : s.pstate = .data) : s.dataLen.toNat < 255 :=
  (h.runIn hp nofun nofun).parserInv.dataLen_lt hp

end

/-- In the data phase the address is complete. -/
theorem PosInv.addressDone {s : State} (h : PosInv s) (hp : s.pstate = .checksum ∨ s.pstate = .data) :
    s.aIdx.toNat = kindLen s.fKind ∧ s.fKind = delimKind s.fDelim := by
  have hat := h.address
  rcases hp with hp | hp <;> rw [hp] at hat <;> exact hat

theorem posInv_feedStartDelimiter {s : State} (b : Byte) (hdata : s.dIdx = 0 ∧ s.rcLen = 0 ∧ s.dataLen = 0) :
    PosInv (feedStartDelimiter b s) :=
  ⟨⟨one_le_kindLen _, rfl⟩, hdata⟩

/-! ### The bytes held -/

/-- `f_addr` in wire order. -/
def AddrRegs.bytes (r : AddrRegs) : List Byte := [r.a0, r.a1, r.a2, r.a3, r.a4]

/-- The address bytes taken so far. -/
def addrTaken (s : State) : List Byte := s.fAddr.bytes.take s.aIdx.toNat

/-- The response-code and payload bytes taken so far. -/
def dataTaken (s : State) : List Byte := regRc s ++ regData s

/-- The bytes of a frame, from the delimiter on, that the registers hold in a parser state. -/
def heldAt (s : State) : PState → List Byte
  | .notInCommand | .preamble | .startDelimiter => []
  | .address | .command => s.fDelim :: addrTaken s
  | .dataLength => s.fDelim :: (addrTaken s ++ [s.fCmd])
  | .data | .checksum => s.fDelim :: (addrTaken s ++ [s.fCmd, s.fLen] ++ dataTaken s)

def held (s : State) : List Byte := heldAt s s.pstate

@[simp] theorem held_deliver (r : Result) (s : State) : held (deliver r s) = held s := rfl

/-- Before the delimiter no byte of a frame is held. -/
theorem held_of_search {s : State}
    (h : s.pstate = .notInCommand ∨ s.pstate = .preamble ∨ s.pstate = .startDelimiter) : held s = [] := by
  rcases h with h | h | h <;> rw [held, h] <;> rfl

theorem held_of_rearmed {s : State} (h : Rearmed s) : held s = [] := by
  rw [held, h.pstate]
  split <;> rfl

theorem held_of_addressPhase {s : State} (h : s.pstate = .command ∨ s.pstate = .address) :
    held s = s.fDelim :: addrTaken s := by
  rcases h with h | h <;> rw [held, h] <;> rfl

theorem held_of_dataPhase {s : State} (h : s.pstate = .checksum ∨ s.pstate = .data) :
    held s = s.fDelim :: (addrTaken s ++ [s.fCmd, s.fLen] ++ dataTaken s) := by
  rcases h with h | h <;> rw [held, h] <;> rfl

theorem AddrRegs.bytes_length (r : AddrRegs) : r.bytes.length = 5 := rfl

theorem addrTaken_length {s : State} (h : s.aIdx.toNat ≤ 5) : (addrTaken s).length = s.aIdx.toNat := by
  rw [addrTaken, List.length_take, AddrRegs.bytes_length, min_eq_left h]

@[simp] theorem regRc_length (s : State) : (regRc s).length = s.rcLen.val := by
  have hlt := s.rcLen.isLt
  rw [regRc, List.length_take]
  exact min_eq_left (Nat.le_of_lt_succ hlt)

theorem take_succ_set {α : Type} {x : List α} {i : Nat} (b : α) (h : i < x.length) :
    (x.set i b).take (i + 1) = x.take i ++ [b] := by
  rw [List.set_eq_take_append_cons_drop, if_pos h, List.append_cons]
  exact List.take_left' (by simp [h.le])

section
variable {s : State} (b : Byte)

theorem held_feedStartDelimiter : held (feedStartDelimiter b s) = [b] := rfl

theorem addrTaken_afterAddressByte {q : AddrRegs} (hlt : s.aIdx.toNat < 5)
    (hq : setAddrByte s.fAddr s.aIdx b = some q) : addrTaken (afterAddressByte q s) = addrTaken s ++ [b] := by
  obtain ⟨q', hq', hset⟩ := setAddrByte_some (r := s.fAddr) b hlt
  obtain rfl : q' = q := Option.some.inj (hq'.symm.trans hq)
  have hnext : (s.aIdx + 1).toNat = s.aIdx.toNat + 1 := by bv_omega
  show q'.bytes.take (s.aIdx + 1).toNat = _
  rw [hnext, AddrRegs.bytes, hset]
  exact take_succ_set b hlt

theorem held_afterAddressByte {q : AddrRegs} (hp : s.pstate = .address) (hlt : s.aIdx.toNat < 5)
    (hq : setAddrByte s.fAddr s.aIdx b = some q) : held (afterAddressByte q s) = held s ++ [b] := by
  rw [held_of_addressPhase (.inr hp), held_of_addressPhase (ite_eq_or_eq _ _ _),
    addrTaken_afterAddressByte b hlt hq]
  rfl

theorem held_feedCommand (hp : s.pstate = .command) : held (feedCommand b s) = held s ++ [b] := by
  rw [held, held, hp]
  rfl

theorem held_afterLengthByte (hp : s.pstate = .dataLength) : held (afterLengthByte b s) = held s ++ [b] := by
  have hnone : dataTaken (afterLengthByte b s) = [] := rfl
  rw [held_of_dataPhase (ite_eq_or_eq _ _ _), hnone, held, hp]
  simp [heldAt, afterLengthByte, addrTaken]

theorem held_advanceData (hp : s.pstate = .data) (t : State) (hdelim : t.fDelim = s.fDelim)
    (haddr : addrTaken t = addrTaken s) (hcmd : t.fCmd = s.fCmd) (hlen : t.fLen = s.fLen)
    (hdata : dataTaken t = dataTaken s ++ [b]) : held (advanceData t) = held s ++ [b] := by
  have hnew : held (advanceData t) = t.fDelim :: (addrTaken t ++ [t.fCmd, t.fLen] ++ dataTaken t) :=
    held_of_dataPhase (ite_eq_or_eq _ _ _)
  rw [hnew, hdelim, haddr, hcmd, hlen, hdata, held_of_dataPhase (.inr hp)]
  simp

/-- R173: while response-code bytes come no payload has, and each is stored behind those before it. -/
theorem dataTaken_storeRcByte (h : DataAt s .data) (hresp : isResponse s.fDelim = true)
    (hidx : s.dIdx.toNat < 2) : dataTaken (storeRcByte b s) = dataTaken s ++ [b] := by
  obtain ⟨-, hrc, hsum, -⟩ := h
  rw [hresp, if_pos rfl] at hrc
  have hempty : regData s = [] := by
    have hz : s.dataLen.toNat = 0 := by omega
    rw [regData, hz]
    rfl
  have hempty' : regData (storeRcByte b s) = [] := by simpa [regData] using hempty
  rw [dataTaken, dataTaken, hempty, hempty', List.append_nil, List.append_nil, regRc, regRc]
  by_cases hz : s.dIdx = 0
  · have hlen : s.rcLen.val = 0 := by simpa [hz] using hrc
    simp [storeRcByte_code b hz, hlen]
  · have hlen : s.rcLen.val = 1 := by bv_omega
    simp [storeRcByte_status b hz, hlen]

theorem held_storeRcByte (h : DataAt s .data) (hp : s.pstate = .data) (hresp : isResponse s.fDelim = true)
    (hidx : s.dIdx.toNat < 2) : held (advanceData (storeRcByte b s)) = held s ++ [b] := by
  apply held_advanceData b hp
  case hdata => exact dataTaken_storeRcByte b h hresp hidx
  all_goals simp [addrTaken]

theorem held_afterPayloadByte (hp : s.pstate = .data) (hroom : s.dataLen.toNat < 255) :
    held (afterPayloadByte b s) = held s ++ [b] := by
  apply held_advanceData b hp
  case hdata =>
    have hnext : (s.dataLen + 1).toNat = s.dataLen.toNat + 1 := by bv_omega
    show regRc s ++ bufPrefix (bufWrite s.buf s.dataLen.toNat b) (s.dataLen + 1).toNat = _
    rw [hnext, bufPrefix_bufWrite_end, ← List.append_assoc]
    rfl
  all_goals rfl

end

/-- R174: once the address is complete its bytes are those of the registers' address. -/
theorem addrTaken_eq_addrBytes {s : State} (h : s.aIdx.toNat = kindLen s.fKind) :
    addrTaken s = addrBytes (regAddress s) := by
  rw [addrTaken, h, regAddress]
  cases s.fKind <;> rfl

end Sys2Proof.Machine
end

section
/-!
PROOFS. A frame from its delimiter to its checksum byte (spec/42_frame_parser.md R167 to R176, R183, R186): the
parser takes the body phase by phase, and in state Checksum its registers hold exactly that body.
-/
namespace Sys2Proof.Machine

/-! ### Taking bytes -/

/-- The parser takes the bytes `x` of a frame, one after the other and without an event, and goes from `s` to
`t`. -/
structure Takes (x : List Byte) (s t : State) : Prop where
  runs : RunsTo s (prsFeeds x) t []
  held : held t = held s ++ x
  positions : PosInv t
  cfg : t.cfg = s.cfg
  mode : t.mode = s.mode
  preCnt : t.preCnt = s.preCnt
  fault : t.fault = s.fault

theorem Takes.running {x : List Byte} {s t : State} (h : Takes x s t) (hr : Running s) : Running t :=
  ⟨h.fault.trans hr.1, fun hm => hr.2 (h.mode ▸ hm)⟩

theorem Takes.append {x y : List Byte} {s t u : State} (h : Takes x s t) (k : Takes y t u) :
    Takes (x ++ y) s u where
  runs := prsFeeds_append x y ▸ h.runs.append k.runs
  held := by rw [k.held, h.held, List.append_assoc]
  positions := k.positions
  cfg := k.cfg.trans h.cfg
  mode := k.mode.trans h.mode
  preCnt := k.preCnt.trans h.preCnt
  fault := k.fault.trans h.fault

/-- One byte, taken by a rule that writes neither the preamble counter nor the latch. -/
theorem Takes.of_feed {b : Byte} {s t : State} (h : exec (.prsFeed b) s = .next (deliver .none t))
    (hheld : Machine.held t = Machine.held s ++ [b]) (hpos : PosInv t) (hpre : t.preCnt = s.preCnt)
    (hfault : t.fault = s.fault) : Takes [b] s (deliver .none t) where
  runs := RunsTo.feed h (RunsTo.nil _)
  held := hheld
  positions := ⟨hpos.address, hpos.data⟩
  cfg := (feedStep_of_exec h).frame.cfg
  mode := (feedStep_of_exec h).frame.mode
  preCnt := hpre
  fault := hfault

section
variable {s : State} (hr : Running s) (hp : s.pstate = .data) (b : Byte)
include hr hp

/-- R173: a response-code byte. -/
theorem exec_feed_rcByte (hresp : isResponse s.fDelim = true) (hidx : s.dIdx.toNat < 2) :
    exec (.prsFeed b) s = .next (deliver .none (advanceData (storeRcByte b s))) := by
  rw [exec_feed_data hr hp, feedData, storeIndex_rc hresp hidx]

/-- R173: a payload byte. -/
theorem exec_feed_payload (hbyte : ¬(isResponse s.fDelim = true ∧ s.dIdx.toNat < 2)) (hroom : s.dataLen.toNat < 255) :
    exec (.prsFeed b) s = .next (deliver .none (afterPayloadByte b s)) := by
  rcases feedData_cases b s with ⟨hresp, hidx, -⟩ | ⟨-, -, e⟩ | ⟨-, hfull, -⟩
  · exact absurd ⟨hresp, hidx⟩ hbyte
  · exact (exec_feed_data hr hp b).trans e
  · exact absurd hroom hfull

end

section
variable {s : State} (hr : Running s)

theorem takes_delimiter {b : Byte} (h : exec (.prsFeed b) s = .next (deliver .none (feedStartDelimiter b s)))
    (hheld : held s = []) (hdata : s.dIdx = 0 ∧ s.rcLen = 0 ∧ s.dataLen = 0) :
    Takes [b] s (deliver .none (feedStartDelimiter b s)) :=
  .of_feed h (by rw [held_feedStartDelimiter, hheld]; rfl) (posInv_feedStartDelimiter b hdata) rfl rfl

variable (hpos : PosInv s)
include hr hpos

theorem takes_addressByte (hp : s.pstate = .address) (b : Byte) :
    ∃ q, Takes [b] s (deliver .none (afterAddressByte q s)) := by
  have hlt := hpos.aIdx_lt hp
  obtain ⟨q, hq, e⟩ := feedAddress_next b hlt
  exact ⟨q, .of_feed ((exec_feed_address hr hp b).trans e) (held_afterAddressByte b hp hlt hq)
    (posInv_afterAddressByte hpos hp q) rfl rfl⟩

theorem takes_command (hp : s.pstate = .command) (b : Byte) :
    Takes [b] s (deliver .none (feedCommand b s)) :=
  .of_feed (exec_feed_command hr hp b) (held_feedCommand b hp) (posInv_feedCommand hpos hp b) rfl rfl

theorem takes_lengthByte (hp : s.pstate = .dataLength) {b : Byte} (hb : isResponse s.fDelim = true → b ≠ 1) :
    Takes [b] s (deliver .none (afterLengthByte b s)) := by
  refine .of_feed ?_ (held_afterLengthByte b hp) (posInv_afterLengthByte hpos hp hb) rfl rfl
  rw [exec_feed_dataLength hr hp]
  rcases feedDataLength_cases b s with ⟨hresp, hone, -⟩ | ⟨-, e⟩
  · exact absurd hone (hb hresp)
  · rw [e]

theorem takes_rcByte (hp : s.pstate = .data) (b : Byte) (hresp : isResponse s.fDelim = true)
    (hidx : s.dIdx.toNat < 2) : Takes [b] s (deliver .none (advanceData (storeRcByte b s))) :=
  .of_feed (exec_feed_rcByte hr hp b hresp hidx) (held_storeRcByte b (hp ▸ hpos.data) hp hresp hidx)
    (posInv_storeRcByte hpos hp b hresp hidx) (storeRcByte_preCnt b s) (storeRcByte_fault b s)

theorem takes_payloadByte (hp : s.pstate = .data) (b : Byte)
    (hbyte : ¬(isResponse s.fDelim = true ∧ s.dIdx.toNat < 2)) :
    Takes [b] s (deliver .none (afterPayloadByte b s)) := by
  have hroom := hpos.dataLen_lt hp
  exact .of_feed (exec_feed_payload hr hp b hbyte hroom) (held_afterPayloadByte b hp hroom)
    (posInv_afterPayloadByte hpos hp b hbyte hroom) rfl rfl

/-- What a byte of the data phase does, response code or payload: it moves the position by one (R173). -/
theorem takes_dataByte (hp : s.pstate = .data) (b : Byte) :
    ∃ u, Takes [b] s (deliver .none (advanceData u)) ∧ u.dIdx = s.dIdx ∧ u.fLen = s.fLen := by
  by_cases hbyte : isResponse s.fDelim = true ∧ s.dIdx.toNat < 2
  · exact ⟨_, takes_rcByte hr hpos hp b hbyte.1 hbyte.2, storeRcByte_dIdx b s, storeRcByte_fLen b s⟩
  · exact ⟨_, takes_payloadByte hr hpos hp b hbyte, rfl, rfl⟩

end

/-! ### The phases of a frame -/

/-- R169: the rest of the address, however much of it is left. -/
theorem takes_address (x : List Byte) {s : State} (hr : Running s) (hpos : PosInv s) (hp : s.pstate = .address)
    (hlen : s.aIdx.toNat + x.length = kindLen s.fKind) : ∃ t, Takes x s t ∧ t.pstate = .command := by
  have haddr := hpos.address
  rw [hp] at haddr
  obtain ⟨hlt, -⟩ := haddr
  induction x generalizing s with
  | nil => simp at hlen; omega
  | cons b x ih =>
    obtain ⟨q, hb⟩ := takes_addressByte hr hpos hp b
    have hfive := kindLen_le_five s.fKind
    have hnext : (s.aIdx + 1).toNat = s.aIdx.toNat + 1 := by bv_omega
    rw [List.length_cons] at hlen
    by_cases hlast : (s.aIdx + 1).toNat = kindLen s.fKind
    · obtain rfl : x = [] := List.length_eq_zero_iff.1 (by omega)
      exact ⟨_, hb, if_pos hlast⟩
    · obtain ⟨t, hx, ht⟩ := ih (hb.running hr) hb.positions (if_neg hlast)
        (show (s.aIdx + 1).toNat + x.length = kindLen s.fKind by omega)
        (show (s.aIdx + 1).toNat < kindLen s.fKind by omega)
      exact ⟨t, hb.append hx, ht⟩

/-- R173: the rest of the data phase, however much of it is left. -/
theorem takes_data (x : List Byte) {s : State} (hr : Running s) (hpos : PosInv s) (hp : s.pstate = .data)
    (hlen : s.dIdx.toNat + x.length = s.fLen.toNat) : ∃ t, Takes x s t ∧ t.pstate = .checksum := by
  have hdata := hpos.data
  rw [hp] at hdata
  obtain ⟨hlt, -⟩ := hdata
  induction x generalizing s with
  | nil => simp at hlen; omega
  | cons b x ih =>
    obtain ⟨u, hb, hidx, hulen⟩ := takes_dataByte hr hpos hp b
    rw [← hidx, ← hulen] at hlt hlen
    have hnext := toNat_add_one_of_lt hlt
    rw [List.length_cons] at hlen
    by_cases hlast : u.dIdx + 1 = u.fLen
    · have hend : u.fLen.toNat = u.dIdx.toNat + 1 := by rw [← hlast, hnext]
      obtain rfl : x = [] := List.length_eq_zero_iff.1 (by omega)
      exact ⟨_, hb, if_pos hlast⟩
    · obtain ⟨t, hx, ht⟩ := ih (hb.running hr) hb.positions (if_neg hlast)
        (show (u.dIdx + 1).toNat + x.length = u.fLen.toNat by omega)
        (show (u.dIdx + 1).toNat < u.fLen.toNat by bv_omega)
      exact ⟨t, hb.append hx, ht⟩

/-- The length byte and all that it announces. -/
theorem takes_lengthAndData {n : Byte} {payload : List Byte} (hlen : payload.length = n.toNat) {s : State}
    (hr : Running s) (hpos : PosInv s) (hp : s.pstate = .dataLength)
    (hn : isResponse s.fDelim = true → n ≠ 1) :
    ∃ t, Takes ([n] ++ payload) s t ∧ t.pstate = .checksum := by
  have hb := takes_lengthByte hr hpos hp hn
  by_cases hz : n = 0
  · obtain rfl : payload = [] := List.length_eq_zero_iff.1 (by rw [hlen, hz]; rfl)
    exact ⟨_, hb, if_pos hz⟩
  · obtain ⟨t, hx, ht⟩ := takes_data payload (hb.running hr) hb.positions (if_neg hz)
      ((Nat.zero_add _).trans hlen)
    exact ⟨t, hb.append hx, ht⟩

/-- The bytes of a frame without preamble and checksum, as the parser reads them (R141, R167 to R173). -/
def bodyBytes (d : Byte) (addr : List Byte) (cmd n : Byte) (payload : List Byte) : List Byte :=
  [d] ++ addr ++ [cmd, n] ++ payload

/-- The lengths a frame body announces are those it has, and it is no response of length 1 (R172). -/
structure BodyFits (d : Byte) (addr : List Byte) (n : Byte) (payload : List Byte) : Prop where
  addr : addr.length = kindLen (delimKind d)
  payload : payload.length = n.toNat
  notShort : ¬(isResponse d = true ∧ n = 1)

section
variable {d cmd n : Byte} {addr payload : List Byte} (hfits : BodyFits d addr n payload)
include hfits

/-- From where the delimiter is taken, the whole body. -/
theorem takes_body {s : State} (hr : Running s)
    (h : exec (.prsFeed d) s = .next (deliver .none (feedStartDelimiter d s))) (hheld : held s = [])
    (hdata : s.dIdx = 0 ∧ s.rcLen = 0 ∧ s.dataLen = 0) :
    ∃ t, Takes (bodyBytes d addr cmd n payload) s t ∧ t.pstate = .checksum := by
  have hd := takes_delimiter h hheld hdata
  obtain ⟨t, ha, hpt⟩ := takes_address addr (hd.running hr) hd.positions rfl
    ((Nat.zero_add _).trans hfits.addr)
  have hda := hd.append ha
  have hc := takes_command (hda.running hr) hda.positions hpt cmd
  have hdac := hda.append hc
  have hdelim : (feedCommand cmd t).fDelim = d := by
    have e := hdac.held
    rw [hheld, held_deliver, held] at e
    exact (List.cons.inj e).1
  obtain ⟨u, hx, hu⟩ := takes_lengthAndData hfits.payload (hdac.running hr) hdac.positions rfl
    (fun hresp hone => hfits.notShort ⟨hdelim ▸ hresp, hone⟩)
  refine ⟨u, ?_, hu⟩
  simpa [bodyBytes] using hdac.append hx

end

/-! ### State Checksum -/

/-- In state Data or Checksum the bytes held give back the registers. -/
theorem registers_of_held {t : State} {d cmd n : Byte} {addr payload : List Byte} (hpos : PosInv t)
    (hp : t.pstate = .checksum ∨ t.pstate = .data) (haddr : addr.length = kindLen (delimKind d))
    (h : held t = bodyBytes d addr cmd n payload) :
    t.fDelim = d ∧ addrTaken t = addr ∧ t.fCmd = cmd ∧ t.fLen = n ∧ dataTaken t = payload := by
  obtain ⟨hidx, hkind⟩ := hpos.addressDone hp
  rw [held_of_dataPhase hp, List.append_assoc] at h
  obtain ⟨rfl, htail⟩ := List.cons.inj h
  have hlen : (addrTaken t).length = addr.length := by
    rw [addrTaken_length (hidx ▸ kindLen_le_five _), hidx, hkind, haddr]
  obtain ⟨hat, hrest⟩ := List.append_inj (htail.trans (List.append_assoc _ _ _)) hlen
  obtain ⟨hcmd, hrest⟩ := List.cons.inj hrest
  obtain ⟨hn, hdata⟩ := List.cons.inj hrest
  exact ⟨rfl, hat, hcmd, hn, hdata⟩

/-- R174: the checksum computed over the registers is that of the bytes held. -/
theorem regCks_eq_xor8_held {t : State} (hpos : PosInv t) (hp : t.pstate = .checksum) :
    regCks t = xor8 (held t) := by
  have hidx := (hpos.addressDone (.inl hp)).1
  rw [held_of_dataPhase (.inl hp), addrTaken_eq_addrBytes hidx, regCks, dataTaken]
  simp only [List.append_assoc, List.cons_append, List.nil_append]

/-- The fields of a Complete event for a frame with the given bytes (R174 to R176). -/
def FrameFields (g : Frame) (pre : Nat) (d : Byte) (addr : List Byte) (cmd n : Byte) (payload : List Byte)
    (ck : Byte) : Prop :=
  g.pre = pre ∧ g.delim = d ∧ addrBytes g.addr = addr ∧ g.cmd = cmd ∧ g.cks = ck ∧
    g.rc = (if isResponse d then payload.take 2 else []) ∧
    g.data = (if xor8 (bodyBytes d addr cmd n payload) = ck then payload.drop g.rc.length else [])

section
variable {d cmd n : Byte} {addr payload : List Byte} (hfits : BodyFits d addr n payload)
include hfits

theorem regFrame_fields {t : State} (hpos : PosInv t) (hp : t.pstate = .checksum)
    (h : held t = bodyBytes d addr cmd n payload) (ck : Byte) :
    FrameFields (regFrame t ck) t.preCnt d addr cmd n payload ck := by
  obtain ⟨hd, haddr, hcmd, hn, hdata⟩ := registers_of_held hpos (.inl hp) hfits.addr h
  have hidx := (hpos.addressDone (.inl hp)).1
  have hdataAt := hpos.data
  rw [hp] at hdataAt
  obtain ⟨-, hrcLen, -⟩ := hdataAt
  rw [hd, hn] at hrcLen
  have hsplit : regRc t ++ regData t = payload := hdata
  have hrc : regRc t = if isResponse d then payload.take 2 else [] := by
    have htake : regRc t = payload.take t.rcLen.val := by
      rw [← hsplit, List.take_left' (regRc_length t)]
    rw [htake, hrcLen]
    cases hresp : isResponse d with
    | false => simp
    | true =>
      by_cases hz : n = 0
      · obtain rfl : payload = [] := List.length_eq_zero_iff.1 (by rw [hfits.payload, hz]; rfl)
        simp
      · rw [if_pos ⟨rfl, hz⟩, if_pos rfl]
  have hdrop : regData t = payload.drop (regRc t).length := by
    rw [← hsplit, List.drop_left]
  refine ⟨rfl, hd, (addrTaken_eq_addrBytes hidx).symm.trans haddr, hcmd, rfl, hrc, ?_⟩
  show (if regCks t = ck then regData t else []) = _
  rw [regCks_eq_xor8_held hpos hp, h, hdrop]
  rfl

end

theorem idleParser_feedChecksum {t : State} (hr : Running t) (b : Byte) : IdleParser (feedChecksum b t) :=
  ⟨hr.1, hr.2, (rearm_rearmed t).emitComplete _⟩

theorem runsTo_checksum {t : State} (hr : Running t) (hp : t.pstate = .checksum) (ck : Byte) :
    RunsTo t (prsFeeds [ck]) (feedChecksum ck t) [regFrame t ck] :=
  RunsTo.cons (exec_feed_checksum hr hp ck) rfl (RunsTo.nil _)

/-- What is fed, `before` without its last byte `ck`, delivers nothing; on `ck` comes one event that meets
`P`, and the parser is idle. -/
def OneEventOnLast (s : State) (before : List Byte) (ck : Byte) (P : Frame → Prop) : Prop :=
  (∃ r, runFeeds s before = .next r ∧ r.events = [] ∧ r.allOk = true) ∧
    ∃ r g, runFeeds s (before ++ [ck]) = .next r ∧ r.events = [g] ∧ FinishedCleanly r ∧ P g

/-- A frame, fed behind bytes that bring the parser to where it takes the delimiter. -/
theorem frame_delivered {s t : State} {lead : List Byte} {d cmd n : Byte} {addr payload : List Byte}
    (hlead : RunsTo s (prsFeeds lead) t []) (hr : Running t)
    (h : exec (.prsFeed d) t = .next (deliver .none (feedStartDelimiter d t))) (hheld : held t = [])
    (hdata : t.dIdx = 0 ∧ t.rcLen = 0 ∧ t.dataLen = 0) (hfits : BodyFits d addr n payload) (ck : Byte) :
    OneEventOnLast s (lead ++ bodyBytes d addr cmd n payload) ck
      (FrameFields · t.preCnt d addr cmd n payload ck) := by
  obtain ⟨u, hbody, hp⟩ := takes_body (cmd := cmd) hfits hr h hheld hdata
  have hbefore : RunsTo s (prsFeeds (lead ++ bodyBytes d addr cmd n payload)) u [] :=
    prsFeeds_append _ _ ▸ hlead.append hbody.runs
  have hall := hbefore.append (runsTo_checksum (hbody.running hr) hp ck)
  rw [← prsFeeds_append] at hall
  have hfields := regFrame_fields hfits hbody.positions hp (by rw [hbody.held, hheld]; rfl) ck
  rw [hbody.preCnt] at hfields
  exact ⟨⟨_, hbefore, rfl, rfl⟩, _, _, hall, rfl, ⟨rfl, idleParser_feedChecksum (hbody.running hr) ck⟩, hfields⟩

theorem IdleParser.running {s : State} (h : IdleParser s) : Running s := ⟨h.1, h.2.1⟩

theorem IdleParser.rearmed {s : State} (h : IdleParser s) : Rearmed s := h.2.2

theorem IdleParser.pstate_noPreamble {s : State} (h : IdleParser s) (hm : s.mode = .noPreamble) :
    s.pstate = .startDelimiter := by
  rw [h.rearmed.pstate, hm]
  rfl

theorem IdleParser.pstate_parsePreamble {s : State} (h : IdleParser s) (hm : s.mode = .parsePreamble) :
    s.pstate = .notInCommand := by
  rw [h.rearmed.pstate, hm]
  rfl

/-- R183, R186: in `NoPreamble` mode the delimiter is the first byte. -/
theorem frame_delivered_noPreamble {s : State} (hidle : IdleParser s) (hm : s.mode = .noPreamble)
    {d cmd n : Byte} {addr payload : List Byte} (hfits : BodyFits d addr n payload) (ck : Byte) :
    OneEventOnLast s (bodyBytes d addr cmd n payload) ck (FrameFields · 0 d addr cmd n payload ck) := by
  have hrearmed := hidle.rearmed
  have hfeed := exec_feed_startDelimiter hidle.running (hidle.pstate_noPreamble hm) d
  have h := frame_delivered (lead := []) (cmd := cmd) (RunsTo.nil s) hidle.running hfeed (held_of_rearmed hrearmed)
    ⟨hrearmed.dIdx, hrearmed.rcLen, hrearmed.dataLen⟩ hfits ck
  rwa [hrearmed.preCnt] at h

/-- Settles O45: the body phase by phase, then the checksum byte. -/
theorem frameBytesConsumed : Obligations.FrameBytesConsumed := by
  intro s d cmd n ck addr payload hidle hm haddr hpayload hshort
  refine ⟨?_, frame_delivered_noPreamble hidle hm ⟨haddr, hpayload, hshort⟩ ck⟩
  simp only [List.length_append, List.length_cons, List.length_nil, hpayload]
  omega

end Sys2Proof.Machine
end

section
/-!
PROOFS. The parser undoes FRM_ENCODE in `NoPreamble` mode (spec/42_frame_parser.md R180 (a)): the output without
its preamble is the body of a frame whose announced lengths fit, and the event's fields are those of the operand.
-/
namespace Sys2Proof.Machine

/-- An address is given by its bytes: their number tells the variant. -/
theorem addrBytes_injective : Function.Injective addrBytes := by
  intro a a' h
  cases a <;> cases a' <;> simp_all [addrBytes]

theorem delimKind_eq_iff (d : Byte) (a : Address) :
    delimKind d = addrKind a ↔ ((delimFields d).addrType = 1 ↔ addrKind a = .long) := by
  rw [delimKind]
  cases addrKind a <;> split <;> simp_all

theorem frameBody_eq_bodyBytes (f : Frame) :
    frameBody f = bodyBytes f.delim (addrBytes f.addr) f.cmd (BitVec.ofNat 8 (frameDataLen f)) (f.rc ++ f.data) := by
  simp [frameBody, bodyBytes]

section
variable {f : Frame} (hself : SelfConsistent f)
include hself

theorem bodyFits_of_selfConsistent (hf : encodable f = true) :
    BodyFits f.delim (addrBytes f.addr) (BitVec.ofNat 8 (frameDataLen f)) (f.rc ++ f.data) := by
  obtain ⟨-, hlen⟩ := (encodable_iff f).1 hf
  obtain ⟨hkind, hresp, -⟩ := hself
  have hbyte := lengthByte_toNat hlen
  refine ⟨?_, ?_, ?_⟩
  · rw [addrBytes_length, addrLen_eq_kindLen, (delimKind_eq_iff _ _).2 hkind]
  · rw [hbyte, List.length_append]
  · rintro ⟨hr, hone⟩
    rw [hone] at hbyte
    have htotal : 1 = f.rc.length + f.data.length := hbyte
    rcases hresp hr with h | ⟨h, h'⟩ <;> omega

/-- R180: the event for the bytes of a self-consistent frame carries that frame, `pre` as counted. -/
theorem eq_of_frameFields {g : Frame} {pre : Nat}
    (h : FrameFields g pre f.delim (addrBytes f.addr) f.cmd (BitVec.ofNat 8 (frameDataLen f)) (f.rc ++ f.data)
      (frameCks f)) : g = { f with pre := pre, cks := frameCks f } := by
  obtain ⟨-, hresp, hreq⟩ := hself
  obtain ⟨hpre, hdelim, haddr, hcmd, hcks, hrc, hdata⟩ := h
  have hrc' : g.rc = f.rc := by
    rw [hrc]
    cases hr : isResponse f.delim with
    | false => exact (List.length_eq_zero_iff.1 (hreq hr)).symm
    | true =>
      rcases hresp hr with htwo | ⟨hzero, hempty⟩
      · exact List.take_left' htwo
      · simp [List.length_eq_zero_iff.1 hzero, List.length_eq_zero_iff.1 hempty]
  have hmatch : xor8 (frameBody f) = frameCks f := rfl
  rw [← frameBody_eq_bodyBytes, if_pos hmatch, hrc', List.drop_left] at hdata
  cases g
  simp_all [addrBytes_injective.eq_iff]

end

theorem idleParser_init {m : Byte} {mode : Mode} (hm : modeOf m = some mode) {s u : State}
    (h : exec (.prsInit m) s = .next u) : IdleParser u ∧ u.mode = mode ∧ u.cfg = s.cfg := by
  rw [exec_init_of_modeOf_some hm] at h
  cases h
  exact ⟨⟨rfl, modeOf_ne_uninit hm, (rearm_rearmed _).deliver _⟩, rfl, rfl⟩

theorem frameBytes_dropLast (f : Frame) : (frameBytes f).dropLast = List.replicate f.pre 0xFF ++ frameBody f :=
  List.dropLast_concat

theorem OneEventOnLast.of_eq {s : State} {before : List Byte} {ck : Byte} {P : Frame → Prop} {f : Frame}
    (h : OneEventOnLast s before ck P) (hP : ∀ g, P g → g = f) :
    (∃ r, runFeeds s before = .next r ∧ r.events = [] ∧ r.allOk = true) ∧
      ∃ r, runFeeds s (before ++ [ck]) = .next r ∧ r.events = [f] ∧ FinishedCleanly r := by
  obtain ⟨hbefore, r, g, hrun, hevents, hclean, hg⟩ := h
  exact ⟨hbefore, r, hrun, hP g hg ▸ hevents, hclean⟩

/-- Settles O47: the frame's own bytes, taken from the delimiter on. -/
theorem parserInvertsEncodeNoPreamble : Obligations.ParserInvertsEncodeNoPreamble := by
  intro s t u f out hf hself hexec hres hinit
  obtain rfl := eq_frameBytes_of_exec hf hexec hres
  obtain ⟨hidle, hmode, -⟩ := idleParser_init rfl hinit
  have h := frame_delivered_noPreamble (cmd := f.cmd) hidle hmode (bodyFits_of_selfConsistent hself hf) (frameCks f)
  rw [← frameBody_eq_bodyBytes] at h
  rw [frameBytes_drop_pre, List.dropLast_concat]
  exact h.of_eq fun g hg => eq_of_frameFields hself hg

end Sys2Proof.Machine
end

section
/-!
PROOFS. Searching for a preamble and counting it (spec/42_frame_parser.md R165, R166): any number of other bytes,
then a run of 0xFF, then a frame; and that the parser undoes FRM_ENCODE in `ParsePreamble` mode (R180 (b)).
-/
namespace Sys2Proof.Machine

section
variable {s : State} (hr : Running s)
include hr

theorem running_of_sameRegs {t : State} (h : SameRegs s t) : Running t :=
  ⟨h.fault.trans hr.1, fun hm => hr.2 (h.rest.mode ▸ hm)⟩

theorem exec_feed_noise (hp : s.pstate = .notInCommand) {b : Byte} (hb : b ≠ 0xFF) :
    exec (.prsFeed b) s = .next (deliver .none s) := by
  rw [exec_feed_notInCommand hr hp, feedNotInCommand, if_neg hb]

theorem exec_feed_firstPreamble (hp : s.pstate = .notInCommand) :
    exec (.prsFeed 0xFF) s = .next (deliver .none { s with pstate := .preamble, preCnt := 1 }) := by
  rw [exec_feed_notInCommand hr hp, feedNotInCommand, if_pos rfl]

theorem exec_feed_nextPreamble (hp : s.pstate = .preamble) :
    exec (.prsFeed 0xFF) s =
      .next (deliver .none { s with preCnt := min (s.preCnt + 1) (preMax s.cfg) }) := by
  rw [exec_feed_preamble hr hp, feedPreamble, if_pos rfl]

theorem exec_feed_endPreamble (hp : s.pstate = .preamble) {b : Byte} (hb : b ≠ 0xFF) (hcnt : 2 ≤ s.preCnt) :
    exec (.prsFeed b) s = .next (deliver .none (feedStartDelimiter b s)) := by
  rw [exec_feed_preamble hr hp, feedPreamble, if_neg hb, if_pos hcnt]

theorem exec_feed_shortPreamble (hp : s.pstate = .preamble) {b : Byte} (hb : b ≠ 0xFF) (hcnt : s.preCnt < 2) :
    exec (.prsFeed b) s = .next (deliver .none { s with pstate := .notInCommand, preCnt := 0 }) := by
  rw [exec_feed_preamble hr hp, feedPreamble, if_neg hb, if_neg (not_le.2 hcnt)]

end

/-- Unchanged registers stay so when parser state and preamble counter are written on both sides. -/
theorem SameRegs.write_counter {s t : State} (h : SameRegs s t) (p : PState) (n : Nat) :
    SameRegs { s with pstate := p, preCnt := n } { t with pstate := p, preCnt := n } := by
  obtain ⟨k, hfault, hcode⟩ := h
  exact ⟨⟨k.cfg, k.mode, rfl, rfl, k.fDelim, k.fKind, k.fAddr, k.aIdx, k.fCmd, k.fLen, k.dIdx, k.fRc, k.rcLen,
    k.buf, k.bufByte, k.dataLen, k.inputs⟩, hfault, hcode⟩

/-- R165: bytes other than 0xFF leave no trace. -/
theorem runsTo_noise {bs : List Byte} (hbs : (0xFF : Byte) ∉ bs) {s : State} (hr : Running s)
    (hp : s.pstate = .notInCommand) : ∃ t, RunsTo s (prsFeeds bs) t [] ∧ SameRegs s t := by
  induction bs generalizing s with
  | nil => exact ⟨s, RunsTo.nil s, SameRegs.refl s⟩
  | cons b bs ih =>
    obtain ⟨hb, hbs⟩ := not_or.1 fun h => hbs (List.mem_cons.2 h)
    obtain ⟨t, hrun, hregs⟩ := ih hbs (s := deliver .none s) hr hp
    exact ⟨t, RunsTo.feed (exec_feed_noise hr hp (Ne.symm hb)) hrun, (deliver_sameRegs _ s).trans hregs⟩

/-- R166: a run of 0xFF moves the counter, as far as it goes, and nothing else. -/
theorem runsTo_run (k : Nat) {s : State} (hr : Running s) (hp : s.pstate = .preamble)
    (hmax : s.preCnt ≤ preMax s.cfg) :
    ∃ t, RunsTo s (prsFeeds (List.replicate k 0xFF)) t [] ∧
      SameRegs { s with preCnt := min (s.preCnt + k) (preMax s.cfg) } t := by
  induction k generalizing s with
  | zero =>
    refine ⟨s, RunsTo.nil s, ?_⟩
    rw [Nat.add_zero, min_eq_left hmax]
    exact SameRegs.refl s
  | succ k ih =>
    obtain ⟨t, hrun, hregs⟩ := ih (s := deliver .none { s with preCnt := min (s.preCnt + 1) (preMax s.cfg) })
      hr hp (min_le_right _ _)
    have hcnt : min (min (s.preCnt + 1) (preMax s.cfg) + k) (preMax s.cfg) =
        min (s.preCnt + (k + 1)) (preMax s.cfg) := by omega
    refine ⟨t, RunsTo.feed (exec_feed_nextPreamble hr hp) hrun, ?_⟩
    rw [← hcnt]
    exact (deliver_sameRegs .none { s with preCnt := _ }).trans hregs

/-- R165, R166: noise and a run of at least one 0xFF, from a parser that searches. -/
theorem runsTo_noise_run {noise : List Byte} (hnoise : (0xFF : Byte) ∉ noise) {k : Nat} (hk : 1 ≤ k) {s : State}
    (hr : Running s) (hp : s.pstate = .notInCommand) (hmax : 1 ≤ preMax s.cfg) :
    ∃ t, RunsTo s (prsFeeds (noise ++ List.replicate k 0xFF)) t [] ∧
      SameRegs { s with pstate := .preamble, preCnt := min k (preMax s.cfg) } t := by
  obtain ⟨u, hrun, hsame⟩ := runsTo_noise hnoise hr hp
  have hru := running_of_sameRegs hr hsame
  obtain ⟨j, rfl⟩ := Nat.exists_eq_add_of_le' hk
  have hfirst := exec_feed_firstPreamble hru (hsame.rest.pstate.trans hp)
  obtain ⟨t, hrest, hregs⟩ := runsTo_run j (s := deliver .none { u with pstate := .preamble, preCnt := 1 })
    hru rfl (show 1 ≤ preMax u.cfg from hsame.rest.cfg ▸ hmax)
  refine ⟨t, ?_, ?_⟩
  · rw [prsFeeds_append]
    exact hrun.append (RunsTo.feed hfirst hrest)
  · have hmax' : preMax u.cfg = preMax s.cfg := congrArg preMax hsame.rest.cfg
    rw [Nat.add_comm j 1, ← hmax']
    have hwritten := hsame.write_counter .preamble (min (1 + j) (preMax u.cfg))
    exact (hwritten.trans (deliver_sameRegs .none { u with pstate := _, preCnt := _ })).trans hregs

/-- R165, R166, R183: in `ParsePreamble` mode the delimiter is the byte that ends a run of at least two 0xFF. -/
theorem frame_delivered_parsePreamble {s : State} (hidle : IdleParser s) (hm : s.mode = .parsePreamble)
    (hw : 2 ≤ s.cfg.preW) {noise : List Byte} (hnoise : (0xFF : Byte) ∉ noise) {k : Nat} (hk : 2 ≤ k)
    {d cmd n : Byte} {addr payload : List Byte} (hd : d ≠ 0xFF) (hfits : BodyFits d addr n payload) (ck : Byte) :
    OneEventOnLast s (noise ++ List.replicate k 0xFF ++ bodyBytes d addr cmd n payload) ck
      (FrameFields · (min k (preMax s.cfg)) d addr cmd n payload ck) := by
  have hmax := three_le_preMax hw
  obtain ⟨t, hlead, hregs⟩ := runsTo_noise_run hnoise (by omega : 1 ≤ k) hidle.running
    (hidle.pstate_parsePreamble hm) (by omega)
  have hcounting : Running { s with pstate := .preamble, preCnt := min k (preMax s.cfg) } := hidle.running
  have hrt := running_of_sameRegs hcounting hregs
  have hcnt : t.preCnt = min k (preMax s.cfg) := hregs.rest.preCnt
  have hrearmed := hidle.rearmed
  have h := frame_delivered (cmd := cmd) hlead hrt (exec_feed_endPreamble hrt hregs.rest.pstate hd (by omega))
    (held_of_search (.inr (.inl hregs.rest.pstate)))
    ⟨hregs.rest.dIdx.trans hrearmed.dIdx, hregs.rest.rcLen.trans hrearmed.rcLen,
      hregs.rest.dataLen.trans hrearmed.dataLen⟩ hfits ck
  rwa [hcnt] at h

/-- Settles O46: the bytes before the frame bring the parser to a counted preamble, whose end is the
delimiter. -/
theorem frameAfterPreamble : Obligations.FrameAfterPreamble := by
  intro s noise k d cmd n ck addr payload hidle hm hw hnoise hk hd haddr hpayload hshort
  exact frame_delivered_parsePreamble hidle hm hw hnoise hk hd ⟨haddr, hpayload, hshort⟩ ck

theorem two_le_of_two_le_preMax {c : Config} (h : 2 ≤ preMax c) : 2 ≤ c.preW := by
  by_contra hlt
  have hle : 2 ^ c.preW ≤ 2 ^ 1 := Nat.pow_le_pow_right (by decide) (by omega)
  rw [preMax] at h
  omega

/-- Settles O48: the output is a run of 0xFF as long as the operand's preamble, then the frame's bytes. -/
theorem parserInvertsEncodePreamble : Obligations.ParserInvertsEncodePreamble := by
  intro s t u f out hf hself htwo hmax hdelim hexec hres hinit
  obtain rfl := eq_frameBytes_of_exec hf hexec hres
  obtain ⟨hidle, hmode, hcfg⟩ := idleParser_init rfl hinit
  have hcfg' : u.cfg = s.cfg := hcfg.trans (modeAndLatchFrame _ _ _ hexec).1
  have hw : 2 ≤ u.cfg.preW := hcfg' ▸ two_le_of_two_le_preMax (htwo.trans hmax)
  have h := frame_delivered_parsePreamble (noise := []) (cmd := f.cmd) hidle hmode hw List.not_mem_nil htwo hdelim
    (bodyFits_of_selfConsistent hself hf) (frameCks f)
  have hcount : min f.pre (preMax u.cfg) = f.pre := min_eq_left (hcfg' ▸ hmax)
  rw [← frameBody_eq_bodyBytes, hcount] at h
  rw [frameBytes_dropLast]
  exact h.of_eq fun g hg => eq_of_frameFields hself hg

end Sys2Proof.Machine
end

section
/-!
PROOFS. PRS_INIT, PRS_RESET and the guards of the parser operations (spec/42_frame_parser.md R161 to R164,
spec/60_exceptions.md R243, R256), and what the latch keeps up to the next PRS_INIT (R184).
-/
namespace Sys2Proof.Machine

/-! ### PRS_INIT and PRS_RESET -/

theorem modeOf_of_selects {m : Byte} (h : m = 1 ∨ m = 2) :
    modeOf m = some (if m = 1 then .parsePreamble else .noPreamble) := by
  rcases h with rfl | rfl <;> rfl

theorem modeOf_eq_none {m : Byte} (h1 : m ≠ 1) (h2 : m ≠ 2) : modeOf m = none :=
  (if_neg h1).trans (if_neg h2)

theorem selects_of_modeOf_some {m : Byte} {mode : Mode} (h : modeOf m = some mode) : m = 1 ∨ m = 2 := by
  by_contra hne
  obtain ⟨h1, h2⟩ := not_or.1 hne
  rw [modeOf_eq_none h1 h2] at h
  cases h

/-- R256: the latch is left by a PRS_INIT with a mode and by nothing else. -/
theorem init_of_latch_left {i : Instr} {s t : State} (h : exec i s = .next t) (hs : s.fault = true)
    (ht : t.fault = false) : i = .prsInit 1 ∨ i = .prsInit 2 := by
  have hkept : ¬SameRegs s t := fun k => by simp [k.fault, hs] at ht
  cases execStep_of_exec h with
  | portsOnly _ k => exact absurd k hkept
  | init e => rcases selects_of_modeOf_some e with rfl | rfl <;> simp
  | rearm hr => simp [hr.1] at hs
  | feed f => exact absurd (f.sameRegs_of_latched hs) hkept

/-- Settles O25: the mode the immediate selects, if it selects one. -/
theorem prsInitResult : Obligations.PrsInitResult := by
  intro s m o
  refine ⟨decode_opWord _ _ o, fun hm => ?_, fun h1 h2 => ?_, fun i t h hs ht => init_of_latch_left h hs ht⟩
  · have hmode := modeOf_of_selects hm
    exact ⟨_, exec_init_of_modeOf_some hmode s, rfl, rfl, rfl, (rearm_rearmed _).deliver _,
      by constructor <;> intros <;> rfl, rfl, rfl, exec_init_of_modeOf_some hmode _⟩
  · exact ⟨_, exec_init_of_modeOf_none (modeOf_eq_none h1 h2) s, takeFault_plainFault rfl _ s⟩

theorem parserGuard_of_fault {s : State} (h : s.fault = true) :
    parserGuard s = some (.parserFaulted, some s.faultCode.toNat) :=
  if_pos h

theorem parserGuard_of_uninit {s : State} (h : s.fault = false) (hm : s.mode = .uninit) :
    parserGuard s = some (.parserUninit, none) := by
  simp [parserGuard, h, hm]

/-- Settles O26: the guard's two faults in their order, else the re-arm. -/
theorem prsResetResult : Obligations.PrsResetResult := by
  intro s o imm
  refine ⟨decode_opWord _ _ o, fun hf => ?_, fun hf hm => ?_, fun hf hm => ?_⟩
  · exact ⟨_, exec_reset_guarded (parserGuard_of_fault hf), takeFault_plainFault rfl _ s⟩
  · exact ⟨_, exec_reset_guarded (parserGuard_of_uninit hf hm), takeFault_plainFault rfl _ s⟩
  · exact ⟨_, exec_reset_running ⟨hf, hm⟩, rfl, rfl, rfl, (rearm_rearmed s).deliver _,
      (rearm_sameFrameRegs s).deliver _, rfl, rfl, exec_reset_running ⟨hf, hm⟩⟩

/-! ### ParserUninit -/

theorem encodeFault_code {f : Frame} {c : FaultCode} {n : Nat} (h : encodeFault f = some (c, n)) :
    c = .encodeBadRcLength ∨ c = .encodeLengthOverflow := by
  unfold encodeFault at h
  split at h
  · cases h; exact .inl rfl
  · split at h
    · cases h; exact .inr rfl
    · cases h

section
variable {s t : State} {info : Option Nat} (hres : t.result = some (.fault .parserUninit info))
include hres

theorem ne_codecOp_of_parserUninit (f : Frame) (r : Result) : codecOp f r s ≠ t := by
  rintro rfl
  cases hf : encodeFault f with
  | none => simp [codecOp, hf] at hres
  | some g =>
    have hcode := encodeFault_code hf
    simp [codecOp, hf] at hres
    simp [hres.1] at hcode

theorem not_pure_of_parserUninit {i : Instr} (h : exec i s = .next t) : isPure i = false := by
  cases i with
  | prsInit | prsReset | prsFeed => rfl
  | frmEncode f => exact absurd (Host.Outcome.next.inj h) (ne_codecOp_of_parserUninit hres f _)
  | frmCksum f => exact absurd (Host.Outcome.next.inj h) (ne_codecOp_of_parserUninit hres f _)
  | frmValidate f rx => exact absurd (Host.Outcome.next.inj h) (ne_codecOp_of_parserUninit hres f _)
  | addrMkShort p => simp only [exec, execAddrMkShort] at h; split at h <;> cases h <;> cases hres
  | addrMkLong mfr dtype id => simp only [exec, execAddrMkLong] at h; split at h <;> cases h <;> cases hres
  | hipEncode hd => simp only [exec, execHipEncode] at h; split at h <;> cases h <;> cases hres
  | _ => cases h; cases hres

/-- R243: the fault has no other cause than a missing mode. -/
theorem guard_of_parserUninit {i : Instr} (h : exec i s = .next t) :
    s.mode = .uninit ∧ (i = .prsReset ∨ ∃ b, i = .prsFeed b) := by
  have hguard {c : FaultCode} {n : Option Nat} (g : parserGuard s = some (c, n)) (e : takeFault c n s = t) :
      s.mode = .uninit := by
    subst e
    cases hres
    rcases parserGuard_cases s with ⟨-, k⟩ | ⟨-, hm, -⟩ | ⟨-, k⟩
    · rw [g] at k; cases k
    · exact hm
    · rw [g] at k; cases k
  have hpure := not_pure_of_parserUninit hres h
  cases i with
  | prsInit m =>
    cases hm : modeOf m with
    | none => rw [exec_init_of_modeOf_none hm] at h; cases h; cases hres
    | some mode => rw [exec_init_of_modeOf_some hm] at h; cases h; cases hres
  | prsReset =>
    refine ⟨?_, .inl rfl⟩
    cases hg : parserGuard s with
    | none => rw [exec_reset_running (parserGuard_none_iff.1 hg)] at h; cases h; cases hres
    | some g => rw [exec_reset_guarded hg] at h; exact hguard hg (Host.Outcome.next.inj h)
  | prsFeed b =>
    refine ⟨?_, .inr ⟨b, rfl⟩⟩
    cases feedStep_of_exec h with
    | guarded g => exact hguard g rfl
    | dataLength hr hp => rcases feedDataLength_cases b s with ⟨-, -, e⟩ | ⟨-, e⟩ <;> rw [e] at hres <;> cases hres
    | search | count | delimiter | address | command | rcByte | payload | checksum => cases hres
  | _ => cases hpure

end

/-- Settles O27: both operations ask the guard first, and nothing but the guard raises ParserUninit. -/
theorem parserGuards : Obligations.ParserGuards := by
  intro s b o
  refine ⟨decode_opWord _ _ o, fun hf => ?_, fun hf hm => ?_, fun i t info h hres => guard_of_parserUninit hres h⟩
  · exact ⟨_, exec_feed_guarded (parserGuard_of_fault hf) b, takeFault_plainFault rfl _ s⟩
  · have hg := parserGuard_of_uninit hf hm
    exact ⟨⟨_, exec_feed_guarded hg b, takeFault_plainFault rfl _ s⟩,
      ⟨_, exec_reset_guarded hg, takeFault_plainFault rfl _ s⟩⟩

/-! ### The latch (R184) -/

/-- While the latch is set an operation but PRS_INIT writes the ports alone. -/
theorem exec_latched {i : Instr} {s : State} (hf : s.fault = true) (hi : ∀ m, i ≠ .prsInit m) :
    ∃ t, exec i s = .next t ∧ t.event = none ∧ SameRegs s t ∧
      (isPure i = false → t.result = some (.fault .parserFaulted (some s.faultCode.toNat))) := by
  have hg := parserGuard_of_fault hf
  obtain ⟨hresult, hevent, hregs⟩ :=
    takeFault_plainFault (c := .parserFaulted) rfl (some s.faultCode.toNat) s
  cases hpure : isPure i with
  | true =>
    rcases exec_pure hpure s.cfg with ⟨r, hr⟩ | ⟨c, n, hc, hr⟩
    · exact ⟨_, hr s rfl, rfl, deliver_sameRegs r s, nofun⟩
    · obtain ⟨-, hevent, hregs⟩ := takeFault_plainFault hc (some n) s
      exact ⟨_, hr s rfl, hevent, hregs, nofun⟩
  | false =>
    cases i with
    | prsInit m => exact absurd rfl (hi m)
    | prsReset => exact ⟨_, exec_reset_guarded hg, hevent, hregs, fun _ => hresult⟩
    | prsFeed b => exact ⟨_, exec_feed_guarded hg b, hevent, hregs, fun _ => hresult⟩
    | _ => cases hpure

/-- Neither a hardware reset nor a PRS_INIT is pending. -/
def NothingUnlatches (s : State) : Prop :=
  ∀ p ∈ s.inputs, p ≠ .hardwareReset ∧ ∀ m, decode p ≠ .instr (.prsInit m)

/-- `t` has the registers of `s`, latched, and nothing that leaves the latch is pending in it. -/
structure KeptLatched (s t : State) : Prop where
  latch : t.fault = true
  pending : NothingUnlatches t
  regs : SameRegs { s with inputs := t.inputs } t

theorem decode_eq_reset_iff {p : PortInput} : decode p = .reset ↔ p = .hardwareReset := by
  cases p with
  | op w o =>
    refine iff_of_false (fun h => ?_) nofun
    simp only [decode, decodeOp] at h
    split at h <;> cases h
  | wire d => exact iff_of_false nofun nofun
  | hardwareReset => exact iff_of_true rfl rfl

/-- An operation that writes the ports of the state without its oldest request keeps the rest. -/
theorem KeptLatched.of_taken {s t u : State} {p : PortInput} {rest : List PortInput} (h : KeptLatched s t)
    (hport : t.inputs = p :: rest) (k : SameRegs { t with inputs := rest } u) : KeptLatched s u := by
  obtain ⟨hf, hpending, ⟨r, hfault, hcode⟩⟩ := h
  have hin : u.inputs = rest := k.rest.inputs
  refine ⟨k.fault.trans hf, fun q hq => hpending q ?_, ?_⟩
  · rw [hport]
    exact List.mem_cons_of_mem p (hin ▸ hq)
  · have hs : SameRegs { s with inputs := u.inputs } { t with inputs := rest } :=
      ⟨⟨r.cfg, r.mode, r.pstate, r.preCnt, r.fDelim, r.fKind, r.fAddr, r.aIdx, r.fCmd, r.fLen, r.dIdx, r.fRc,
        r.rcLen, r.buf, r.bufByte, r.dataLen, hin.symm⟩, hfault, hcode⟩
    exact hs.trans k

theorem KeptLatched.step {s t u : State} (h : KeptLatched s t) (hstep : step t = .next u) : KeptLatched s u := by
  rcases step_cases hstep with ⟨-, rfl⟩ | ⟨p, rest, hport, hp⟩
  · exact h
  have hmem : p ∈ t.inputs := hport ▸ List.mem_cons_self
  obtain ⟨hnoReset, hnoInit⟩ := h.pending p hmem
  rcases hp with ⟨hdec, -⟩ | ⟨op, -, rfl⟩ | ⟨i, hdec, he⟩
  · exact absurd (decode_eq_reset_iff.1 hdec) hnoReset
  · obtain ⟨-, -, hregs⟩ := takeFault_plainFault (c := .illegalOp) rfl (some op.toNat) { t with inputs := rest }
    exact h.of_taken hport hregs
  · have hi : ∀ m, i ≠ .prsInit m := fun m e => hnoInit m (e ▸ hdec)
    obtain ⟨v, hv, -, hregs, -⟩ := exec_latched (s := { t with inputs := rest }) h.latch hi
    obtain rfl := Host.Outcome.next.inj (hv.symm.trans he)
    exact h.of_taken hport hregs

/-- Settles O43: one operation by its guard, any number of steps by what each keeps. -/
theorem latchStaysWithoutInit : Obligations.LatchStaysWithoutInit := by
  refine ⟨fun i s hf hi => exec_latched hf hi, fun k s t hf hpending hrun => ?_⟩
  have hstart : KeptLatched s s := ⟨hf, hpending, SameRegs.refl s⟩
  exact (runSteps_keeps (P := KeptLatched s) (fun _ _ => KeptLatched.step) hstart hrun).regs

end Sys2Proof.Machine
end

section
/-!
PROOFS. PRS_FEED state by state (spec/42_frame_parser.md R165 to R176): the exact next state of each rule, and what
the invariant says of the state the rule starts in.
-/
namespace Sys2Proof.Machine

/-- R167: the delimiter byte, bit 7 read in numbers. -/
theorem feedStartDelimiter_eq (b : Byte) (s : State) :
    feedStartDelimiter b s = { s with
      fDelim := b, fKind := if 128 ≤ b.toNat then .long else .short, aIdx := 0, pstate := .address } := by
  rw [feedStartDelimiter, delimKind_eq]

theorem kindLen_eq (k : AddrKind) : kindLen k = if k = .long then 5 else 1 := by
  cases k <;> rfl

/-! ### State Checksum -/

theorem regAddress_eq (s : State) :
    regAddress s = if s.fKind = .long then .long s.fAddr.a0 s.fAddr.a1 s.fAddr.a2 s.fAddr.a3 s.fAddr.a4
      else .short s.fAddr.a0 := by
  rw [regAddress]
  cases s.fKind <;> rfl

section
variable {s : State} (h : ParserInv s) (hp : s.pstate = .checksum)
include h hp

/-- R175: a response of length 2 or more has both bytes of its code, any other frame none. -/
theorem ParserInv.regRc_length_checksum :
    (regRc s).length = if s.fDelim.toNat % 8 = 6 ∧ 2 ≤ s.fLen.toNat then 2 else 0 := by
  obtain ⟨-, hrc, hsum⟩ := h.inChecksum hp
  rw [regRc_length, hrc]
  refine if_congr ?_ rfl rfl
  rw [← isResponse_iff]
  refine and_congr_right fun hresp => ⟨fun hne => ?_, fun hle hz => by simp [hz] at hle⟩
  rw [if_pos ⟨hresp, hne⟩] at hrc
  omega

/-- R174, R176: on a match the frame delivered has the checksum byte received. -/
theorem ParserInv.frameCks_regFrame : frameCks (regFrame s (regCks s)) = regCks s := by
  obtain ⟨-, -, hsum⟩ := h.inChecksum hp
  have hdata : (regFrame s (regCks s)).data = regData s := if_pos rfl
  have hlen : BitVec.ofNat 8 (frameDataLen (regFrame s (regCks s))) = s.fLen := by
    have hcount : frameDataLen (regFrame s (regCks s)) = s.fLen.toNat := by
      rw [frameDataLen, hdata, regData, bufPrefix_length]
      exact (congrArg (· + _) (regRc_length s)).trans hsum
    rw [hcount, BitVec.ofNat_toNat, BitVec.setWidth_eq]
  rw [frameCks, frameBody, hlen, hdata]
  rfl

end

end Sys2Proof.Machine

namespace Sys2Proof.FrameParser

open Machine

/-- Settles O28: the first 0xFF starts a preamble, any run of other bytes leaves the registers alone. -/
theorem feedNotInCommand : Obligations.FeedNotInCommand := by
  intro s hr hp
  refine ⟨exec_feed_firstPreamble hr hp, fun b hb => ⟨_, exec_feed_noise hr hp hb, deliver_pureOk _ s⟩,
    fun bs hbs => ?_, fun h => (h.runIn hr hp).counterAt.1⟩
  obtain ⟨t, hrun, hregs⟩ := runsTo_noise hbs hr hp
  exact ⟨_, hrun, rfl, rfl, hregs⟩

/-- Settles O29: the three things a byte can be to a run of 0xFF. -/
theorem feedPreamble : Obligations.FeedPreamble := by
  intro s hr hp
  refine ⟨exec_feed_nextPreamble hr hp, fun b hb hcnt => ?_, fun b hb hcnt => exec_feed_shortPreamble hr hp hb hcnt⟩
  rw [exec_feed_endPreamble hr hp hb hcnt, feedStartDelimiter_eq]
  rfl

/-- Settles O30: any byte is taken as a delimiter. -/
theorem feedStartDelimiter : Obligations.FeedStartDelimiter := by
  intro s b hr hp
  refine ⟨?_, fun h => (h.runIn hr hp).counterAt⟩
  rw [exec_feed_startDelimiter hr hp, feedStartDelimiter_eq]
  rfl

/-- Settles O31: the byte goes to its index of `f_addr`, the index moves by one. -/
theorem feedAddress : Obligations.FeedAddress := by
  intro s b hr hp hlt
  obtain ⟨q, hq, hset⟩ := setAddrByte_some (r := s.fAddr) b hlt
  obtain ⟨q', hq', e⟩ := feedAddress_next b hlt
  obtain rfl : q' = q := Option.some.inj (hq'.symm.trans hq)
  have hnext : (s.aIdx + 1).toNat = s.aIdx.toNat + 1 := by bv_omega
  rw [← kindLen_eq]
  refine ⟨_, (exec_feed_address hr hp b).trans e, hnext, hset, ?_, rfl, fun h => h.inAddress hp⟩
  rw [← hnext]
  rfl

/-- Settles O32: the rule of state Command for any byte. -/
theorem feedCommand : Obligations.FeedCommand := fun _ b hr hp => exec_feed_command hr hp b

/-- Settles O33: length 1 of a response faults, any other length starts the data phase. -/
theorem feedDataLength : Obligations.FeedDataLength := by
  intro s b hr hp
  rw [exec_feed_dataLength hr hp, ← isResponse_iff]
  rcases feedDataLength_cases b s with ⟨hresp, rfl, e⟩ | ⟨hb, e⟩ <;> rw [e]
  · exact ⟨fun _ _ => ⟨_, rfl, rfl, rfl, takeFault_sameButLatch _ _ s, rfl, rfl⟩,
      fun hnot => absurd ⟨hresp, rfl⟩ hnot⟩
  · exact ⟨fun hresp hone => absurd hone (hb hresp), fun _ => rfl⟩

/-- Settles O34: the code, the status, and a payload byte behind those before it. -/
theorem feedData : Obligations.FeedData := by
  intro s b hr hp
  rw [← isResponse_iff]
  refine ⟨fun hresp hidx => ?_, fun hresp hidx => ?_, fun hbyte hroom => ?_,
    fun h => Nat.le_of_lt_succ (h.dataLen_lt hp)⟩
  · rw [exec_feed_rcByte hr hp b hresp (by simp [hidx]), storeRcByte_code b hidx, advanceData, hidx]
    rfl
  · rw [exec_feed_rcByte hr hp b hresp (by simp [hidx]), storeRcByte_status b (by simp [hidx]), advanceData, hidx]
    rfl
  · exact ⟨_, exec_feed_payload hr hp b hbyte hroom, storeIndex_buf hbyte, bufRead_bufWrite_same _ _ b,
      fun i hi => bufRead_bufWrite_other _ b hi, rfl⟩

/-- Settles O36: the frame of the registers and the re-arm; the rest from the invariant of state Checksum. -/
theorem feedChecksum : Obligations.FeedChecksum := by
  intro s b hr hp
  refine ⟨_, regFrame s b, exec_feed_checksum hr hp b, rfl, rfl, rfl, rfl, rfl, rfl, regAddress_eq s, rfl, ?_,
    rfl, rfl, rfl, (rearm_rearmed s).emitComplete _, (rearm_sameFrameRegs s).emitComplete _, fun h => ?_⟩
  · rw [foldl_xor_zero]
    rfl
  · obtain ⟨hno, hwith⟩ := (h.runIn hr hp).counterAt
    refine ⟨hno, fun hm => ⟨hwith hm, h.counter⟩, h.regRc_length_checksum hp, ?_⟩
    rintro rfl
    exact h.frameCks_regFrame hp

end Sys2Proof.FrameParser
end

section
/-!
PROOFS. A re-armed parser behaves as a freshly armed one (spec/42_frame_parser.md R178): two parsers at the same
point that hold the same bytes answer every byte alike, and a re-arm leaves a parser that holds none.
-/
namespace Sys2Proof.Machine

/-- Two parsers at the same point that hold the same bytes of a frame. Registers that hold no byte taken may
differ. -/
structure Alike (s s' : State) : Prop where
  cfg : s'.cfg = s.cfg
  position : SamePosition s s'
  held : held s' = held s
  positions : PosInv s
  positions' : PosInv s'

theorem Alike.of_rearmed {s s' : State} (hcfg : s'.cfg = s.cfg) (hmode : s'.mode = s.mode)
    (hfault : s'.fault = s.fault) (h : Rearmed s) (h' : Rearmed s') : Alike s s' where
  cfg := hcfg
  position := ⟨hmode, by rw [h.pstate, h'.pstate, hmode], h'.preCnt.trans h.preCnt.symm,
    h'.aIdx.trans h.aIdx.symm, h'.dIdx.trans h.dIdx.symm, h'.rcLen.trans h.rcLen.symm,
    h'.dataLen.trans h.dataLen.symm, hfault⟩
  held := (held_of_rearmed h').trans (held_of_rearmed h).symm
  positions := posInv_of_rearmed h
  positions' := posInv_of_rearmed h'

/-- Two parsers that answered one byte: alike afterwards, with the same outcome and event, and a latched code
that agrees where it did before. -/
structure SameAnswer (s s' t t' : State) : Prop where
  alike : Alike t t'
  result : t'.result = t.result
  event : t'.event = t.event
  code : s.faultCode = s'.faultCode → t.faultCode = t'.faultCode

section
variable {s s' : State} (h : Alike s s')
include h

theorem Alike.running (hr : Running s) : Running s' :=
  ⟨h.position.fault.trans hr.1, fun hm => hr.2 (h.position.mode ▸ hm)⟩

theorem Alike.pstate {p : PState} (hp : s.pstate = p) : s'.pstate = p :=
  h.position.pstate.trans hp

theorem Alike.deliver (r : Result) : Alike (deliver r s) (deliver r s') := by
  obtain ⟨hcfg, ⟨p1, p2, p3, p4, p5, p6, p7, p8⟩, hheld, ⟨ha, hd⟩, ⟨ha', hd'⟩⟩ := h
  exact ⟨hcfg, ⟨p1, p2, p3, p4, p5, p6, p7, p8⟩, hheld, ⟨ha, hd⟩, ⟨ha', hd'⟩⟩

theorem Alike.write_preCnt (n : Nat) : Alike { s with preCnt := n } { s' with preCnt := n } := by
  obtain ⟨hcfg, ⟨p1, p2, -, p4, p5, p6, p7, p8⟩, hheld, ⟨ha, hd⟩, ⟨ha', hd'⟩⟩ := h
  exact ⟨hcfg, ⟨p1, p2, rfl, p4, p5, p6, p7, p8⟩, hheld, ⟨ha, hd⟩, ⟨ha', hd'⟩⟩

/-- Between searching and counting no position moves and no byte is held. -/
theorem Alike.write_search {p q : PState} (hp : s.pstate = p) (hpq : (p = .notInCommand ∧ q = .preamble) ∨
    (p = .preamble ∧ q = .notInCommand)) : Alike { s with pstate := q } { s' with pstate := q } := by
  have hp' := h.pstate hp
  obtain ⟨hcfg, ⟨p1, -, p3, p4, p5, p6, p7, p8⟩, -, ⟨ha, hd⟩, ⟨ha', hd'⟩⟩ := h
  rw [hp] at ha hd
  rw [hp'] at ha' hd'
  rcases hpq with ⟨rfl, rfl⟩ | ⟨rfl, rfl⟩ <;>
    exact ⟨hcfg, ⟨p1, rfl, p3, p4, p5, p6, p7, p8⟩, rfl, ⟨ha, hd⟩, ⟨ha', hd'⟩⟩

theorem Alike.of_takes {x : List Byte} {t t' : State} (k : Takes x s t) (k' : Takes x s' t')
    (hp : t'.pstate = t.pstate) (ha : t'.aIdx = t.aIdx) (hd : t'.dIdx = t.dIdx) (hrc : t'.rcLen = t.rcLen)
    (hlen : t'.dataLen = t.dataLen) : Alike t t' where
  cfg := k'.cfg.trans (h.cfg.trans k.cfg.symm)
  position := ⟨k'.mode.trans (h.position.mode.trans k.mode.symm), hp,
    k'.preCnt.trans (h.position.preCnt.trans k.preCnt.symm), ha, hd, hrc, hlen,
    k'.fault.trans (h.position.fault.trans k.fault.symm)⟩
  held := by rw [k.held, k'.held, h.held]
  positions := k.positions
  positions' := k'.positions

/-- From the delimiter on, the delimiter is the first byte held. -/
theorem Alike.fDelim {p : PState} (hp : s.pstate = p) (hnic : p ≠ .notInCommand) (hpre : p ≠ .preamble)
    (hstart : p ≠ .startDelimiter) : s'.fDelim = s.fDelim := by
  have head {u : State} (hu : u.pstate = p) : (Machine.held u).head? = some u.fDelim := by
    rw [Machine.held, hu]
    cases p with
    | notInCommand => exact absurd rfl hnic
    | preamble => exact absurd rfl hpre
    | startDelimiter => exact absurd rfl hstart
    | address | command | dataLength | data | checksum => rfl
  exact Option.some.inj ((head (h.pstate hp)).symm.trans ((congrArg List.head? h.held).trans (head hp)))

/-- In the data phase every register that holds a byte taken agrees. -/
theorem Alike.registers (hp : s.pstate = .checksum ∨ s.pstate = .data) :
    s'.fDelim = s.fDelim ∧ addrTaken s' = addrTaken s ∧ s'.fCmd = s.fCmd ∧ s'.fLen = s.fLen ∧
      dataTaken s' = dataTaken s := by
  obtain ⟨hidx, hkind⟩ := h.positions.addressDone hp
  have hlen : (addrTaken s).length = kindLen (delimKind s.fDelim) := by
    rw [addrTaken_length (hidx ▸ kindLen_le_five _), hidx, hkind]
  refine registers_of_held h.positions' (h.position.pstate ▸ hp) hlen ?_
  rw [h.held, held_of_dataPhase hp]
  rfl

/-- R174: the frame delivered is one of the bytes held. -/
theorem Alike.regFrame_eq (hp : s.pstate = .checksum) (b : Byte) : regFrame s' b = regFrame s b := by
  obtain ⟨hdelim, htaken, hcmd, -, hdata⟩ := h.registers (.inl hp)
  have hp' := h.pstate hp
  have hidx := (h.positions.addressDone (.inl hp)).1
  have hidx' := (h.positions'.addressDone (.inl hp')).1
  have haddr : regAddress s' = regAddress s := by
    apply addrBytes_injective
    rw [← addrTaken_eq_addrBytes hidx, ← addrTaken_eq_addrBytes hidx', htaken]
  have hrcLen : (regRc s').length = (regRc s).length := by
    rw [regRc_length, regRc_length, h.position.rcLen]
  obtain ⟨hrc, hpayload⟩ := List.append_inj hdata hrcLen
  have hcks : regCks s' = regCks s := by
    rw [regCks_eq_xor8_held h.positions hp, regCks_eq_xor8_held h.positions' hp', h.held]
  rw [regFrame, regFrame, h.position.preCnt, hdelim, haddr, hcmd, hrc, hpayload, hcks]

end

/-- The two parsers have a next state for the byte, and answer alike. -/
def AnswersAlike (s s' : State) (b : Byte) : Prop :=
  ∃ t t', exec (.prsFeed b) s = .next t ∧ exec (.prsFeed b) s' = .next t' ∧ SameAnswer s s' t t'

/-- An answer without an event, by rules that do not write the latched code. -/
theorem AnswersAlike.of_deliver {s s' v v' : State} {b : Byte}
    (hfeed : exec (.prsFeed b) s = .next (deliver .none v)) (hfeed' : exec (.prsFeed b) s' = .next (deliver .none v'))
    (k : Alike (deliver .none v) (deliver .none v')) (hcode : v.faultCode = s.faultCode)
    (hcode' : v'.faultCode = s'.faultCode) : AnswersAlike s s' b :=
  ⟨_, _, hfeed, hfeed', k, rfl, rfl, fun e => hcode.trans (e.trans hcode'.symm)⟩

theorem exec_of_runsTo_singleton {i : Instr} {s t : State} {es : List Frame} (h : RunsTo s [i] t es) :
    exec i s = .next t := by
  rw [RunsTo, runOps] at h
  cases he : exec i s with
  | fault r => rw [he] at h; cases h
  | refused r => rw [he] at h; cases h
  | next u =>
    simp only [he, runOps] at h
    split at h <;> cases h
    rfl

section
variable {s s' : State} (h : Alike s s')
include h

/-- An answer by rules that take the byte. -/
theorem Alike.answers_of_takes {v v' : State} {b : Byte} (k : Takes [b] s (Machine.deliver .none v))
    (k' : Takes [b] s' (Machine.deliver .none v')) (hp : v'.pstate = v.pstate) (ha : v'.aIdx = v.aIdx)
    (hd : v'.dIdx = v.dIdx) (hrc : v'.rcLen = v.rcLen) (hlen : v'.dataLen = v.dataLen)
    (hcode : v.faultCode = s.faultCode) (hcode' : v'.faultCode = s'.faultCode) : AnswersAlike s s' b :=
  .of_deliver (exec_of_runsTo_singleton k.runs) (exec_of_runsTo_singleton k'.runs)
    (h.of_takes k k' hp ha hd hrc hlen) hcode hcode'

/-- The byte taken as a delimiter, in StartDelimiter or at the end of a preamble. -/
theorem Alike.feed_delimiter {b : Byte}
    (hfeed : exec (.prsFeed b) s = .next (Machine.deliver .none (feedStartDelimiter b s)))
    (hfeed' : exec (.prsFeed b) s' = .next (Machine.deliver .none (feedStartDelimiter b s')))
    (hheld : Machine.held s = []) (hdata : s.dIdx = 0 ∧ s.rcLen = 0 ∧ s.dataLen = 0) : AnswersAlike s s' b := by
  obtain ⟨-, -, -, -, hdIdx, hrcLen, hdataLen, -⟩ := h.position
  have hheld' := h.held.trans hheld
  obtain ⟨hd, hrc, hlen⟩ := hdata
  exact h.answers_of_takes (takes_delimiter hfeed hheld ⟨hd, hrc, hlen⟩)
    (takes_delimiter hfeed' hheld' ⟨hdIdx.trans hd, hrcLen.trans hrc, hdataLen.trans hlen⟩)
    rfl rfl hdIdx hrcLen hdataLen rfl rfl

variable (hr : Running s)
include hr

theorem Alike.feed_notInCommand (hp : s.pstate = .notInCommand) (b : Byte) : AnswersAlike s s' b := by
  have hr' := h.running hr
  have hp' := h.pstate hp
  by_cases hb : b = 0xFF
  · subst hb
    have hcounting := (h.write_search hp (.inl ⟨rfl, rfl⟩)).write_preCnt 1
    exact .of_deliver (exec_feed_firstPreamble hr hp) (exec_feed_firstPreamble hr' hp') (hcounting.deliver _) rfl rfl
  · exact .of_deliver (exec_feed_noise hr hp hb) (exec_feed_noise hr' hp' hb) (h.deliver _) rfl rfl

theorem Alike.feed_preamble (hp : s.pstate = .preamble) (b : Byte) : AnswersAlike s s' b := by
  have hr' := h.running hr
  have hp' := h.pstate hp
  have hcnt := h.position.preCnt
  by_cases hb : b = 0xFF
  · subst hb
    have hnext : min (s'.preCnt + 1) (preMax s'.cfg) = min (s.preCnt + 1) (preMax s.cfg) := by rw [hcnt, h.cfg]
    have e := exec_feed_nextPreamble hr' hp'
    rw [hnext] at e
    exact .of_deliver (exec_feed_nextPreamble hr hp) e ((h.write_preCnt _).deliver _) rfl rfl
  · by_cases htwo : 2 ≤ s.preCnt
    · have hdata := h.positions.data
      rw [hp] at hdata
      exact h.feed_delimiter (exec_feed_endPreamble hr hp hb htwo) (exec_feed_endPreamble hr' hp' hb (hcnt ▸ htwo))
        (held_of_search (.inr (.inl hp))) hdata
    · have hshort := (h.write_search hp (.inr ⟨rfl, rfl⟩)).write_preCnt 0
      have hlt := not_le.1 htwo
      exact .of_deliver (exec_feed_shortPreamble hr hp hb hlt) (exec_feed_shortPreamble hr' hp' hb (hcnt ▸ hlt))
        (hshort.deliver _) rfl rfl

theorem Alike.feed_startDelimiter (hp : s.pstate = .startDelimiter) (b : Byte) : AnswersAlike s s' b := by
  have hdata := h.positions.data
  rw [hp] at hdata
  exact h.feed_delimiter (exec_feed_startDelimiter hr hp b) (exec_feed_startDelimiter (h.running hr) (h.pstate hp) b)
    (held_of_search (.inr (.inr hp))) hdata

theorem Alike.feed_address (hp : s.pstate = .address) (b : Byte) : AnswersAlike s s' b := by
  have hp' := h.pstate hp
  obtain ⟨-, -, -, haIdx, hdIdx, hrcLen, hdataLen, -⟩ := h.position
  obtain ⟨q, k⟩ := takes_addressByte hr h.positions hp b
  obtain ⟨q', k'⟩ := takes_addressByte (h.running hr) h.positions' hp' b
  have hkind : s'.fKind = s.fKind := by
    have hat := h.positions.address
    have hat' := h.positions'.address
    rw [hp] at hat
    rw [hp'] at hat'
    rw [hat.2, hat'.2, h.fDelim hp nofun nofun nofun]
  have hpstate : (afterAddressByte q' s').pstate = (afterAddressByte q s).pstate := by
    rw [afterAddressByte, afterAddressByte, haIdx, hkind]
  have hnext : (afterAddressByte q' s').aIdx = (afterAddressByte q s).aIdx := congrArg (· + 1) haIdx
  exact h.answers_of_takes k k' hpstate hnext hdIdx hrcLen hdataLen rfl rfl

theorem Alike.feed_command (hp : s.pstate = .command) (b : Byte) : AnswersAlike s s' b := by
  obtain ⟨-, -, -, haIdx, hdIdx, hrcLen, hdataLen, -⟩ := h.position
  exact h.answers_of_takes (takes_command hr h.positions hp b)
    (takes_command (h.running hr) h.positions' (h.pstate hp) b) rfl haIdx hdIdx hrcLen hdataLen rfl rfl

theorem Alike.feed_dataLength (hp : s.pstate = .dataLength) (b : Byte) : AnswersAlike s s' b := by
  have hr' := h.running hr
  have hp' := h.pstate hp
  have hdelim := h.fDelim hp nofun nofun nofun
  by_cases hshort : isResponse s.fDelim = true ∧ b = 1
  · refine ⟨_, _, exec_feed_dataLength hr hp b, exec_feed_dataLength hr' hp' b, ?_⟩
    rw [feedDataLength, feedDataLength, if_pos hshort, if_pos (hdelim.symm ▸ hshort)]
    obtain ⟨hcfg, ⟨p1, p2, p3, p4, p5, p6, p7, -⟩, hheld, ⟨ha, hd⟩, ⟨ha', hd'⟩⟩ := h
    exact ⟨⟨hcfg, ⟨p1, p2, p3, p4, p5, p6, p7, rfl⟩, hheld, ⟨ha, hd⟩, ⟨ha', hd'⟩⟩, rfl, rfl, fun _ => rfl⟩
  · have hb : isResponse s.fDelim = true → b ≠ 1 := fun hresp hone => hshort ⟨hresp, hone⟩
    exact h.answers_of_takes (takes_lengthByte hr h.positions hp hb)
      (takes_lengthByte hr' h.positions' hp' (hdelim.symm ▸ hb)) rfl h.position.aIdx rfl rfl rfl rfl rfl

theorem Alike.feed_data (hp : s.pstate = .data) (b : Byte) : AnswersAlike s s' b := by
  have hr' := h.running hr
  have hp' := h.pstate hp
  obtain ⟨hdelim, -, -, hlen, -⟩ := h.registers (.inr hp)
  obtain ⟨-, -, -, haIdx, hdIdx, hrcLen, hdataLen, -⟩ := h.position
  by_cases hbyte : isResponse s.fDelim = true ∧ s.dIdx.toNat < 2
  · obtain ⟨hresp, hidx⟩ := hbyte
    have hidx' : s'.dIdx.toNat < 2 := hdIdx.symm ▸ hidx
    have k := takes_rcByte hr h.positions hp b hresp hidx
    have k' := takes_rcByte hr' h.positions' hp' b (hdelim.symm ▸ hresp) hidx'
    have hrc : (storeRcByte b s').rcLen = (storeRcByte b s).rcLen :=
      Fin.ext (by rw [storeRcByte_rcLen b hidx, storeRcByte_rcLen b hidx', hdIdx])
    exact h.answers_of_takes k k' (by simp [hdIdx, hlen]) (by simp [haIdx]) (by simp [hdIdx]) hrc (by simp [hdataLen])
      (by simp) (by simp)
  · have k := takes_payloadByte hr h.positions hp b hbyte
    have k' := takes_payloadByte hr' h.positions' hp' b (hdelim.symm ▸ hdIdx.symm ▸ hbyte)
    refine h.answers_of_takes k k' ?_ haIdx (congrArg (· + 1) hdIdx) hrcLen (congrArg (· + 1) hdataLen) rfl rfl
    rw [afterPayloadByte, afterPayloadByte, advanceData_pstate, advanceData_pstate, hdIdx, hlen]

theorem Alike.feed_checksum (hp : s.pstate = .checksum) (b : Byte) : AnswersAlike s s' b := by
  have hr' := h.running hr
  have hp' := h.pstate hp
  refine ⟨_, _, exec_feed_checksum hr hp b, exec_feed_checksum hr' hp' b, ?_, rfl,
    congrArg some (h.regFrame_eq hp b), id⟩
  exact .of_rearmed h.cfg h.position.mode h.position.fault (idleParser_feedChecksum hr b).rearmed
    (idleParser_feedChecksum hr' b).rearmed

/-- Parsers that are alike answer every byte alike. -/
theorem Alike.feed (b : Byte) : AnswersAlike s s' b := by
  cases hp : s.pstate with
  | notInCommand => exact h.feed_notInCommand hr hp b
  | preamble => exact h.feed_preamble hr hp b
  | startDelimiter => exact h.feed_startDelimiter hr hp b
  | address => exact h.feed_address hr hp b
  | command => exact h.feed_command hr hp b
  | dataLength => exact h.feed_dataLength hr hp b
  | data => exact h.feed_data hr hp b
  | checksum => exact h.feed_checksum hr hp b

end

/-- R254: a feed that ends `ok` leaves the latch as it was. -/
theorem FeedStep.fault_of_ok {b : Byte} {s t : State} (f : FeedStep b s t) {v : Result}
    (hres : t.result = some (.ok v)) : t.fault = s.fault := by
  cases f with
  | guarded => cases hres
  | search => rcases feedNotInCommand_cases b s with ⟨-, e⟩ | ⟨-, e⟩ <;> rw [e] <;> rfl
  | count => rcases feedPreamble_cases b s with ⟨-, e⟩ | ⟨-, -, e⟩ | ⟨-, -, e⟩ <;> rw [e] <;> rfl
  | dataLength =>
    rcases feedDataLength_cases b s with ⟨-, -, e⟩ | ⟨-, e⟩ <;> rw [e] at hres ⊢
    · cases hres
    · rfl
  | rcByte => simp
  | delimiter | address | command | payload | checksum => rfl

theorem running_of_feed_ok {b : Byte} {s t : State} (hr : Running s) (h : exec (.prsFeed b) s = .next t)
    {v : Result} (hres : t.result = some (.ok v)) : Running t := by
  have f := feedStep_of_exec h
  exact ⟨(f.fault_of_ok hres).trans hr.1, fun hm => hr.2 (f.frame.mode ▸ hm)⟩

/-- Two runs from parsers that are alike, as R178 compares them. -/
structure SameRuns (s s' : State) (r r' : OpsRun) : Prop where
  events : r.events = r'.events
  allOk : r.allOk = r'.allOk
  result : r.final.result = r'.final.result
  position : SamePosition r.final r'.final
  code : s.faultCode = s'.faultCode → r.final.faultCode = r'.final.faultCode

theorem Alike.runFeeds (bs : List Byte) {s s' : State} (h : Alike s s') (hr : Running s)
    (hres : s'.result = s.result) :
    ∃ r r', runFeeds s bs = .next r ∧ runFeeds s' bs = .next r' ∧ SameRuns s s' r r' := by
  induction bs generalizing s s' with
  | nil => exact ⟨_, _, rfl, rfl, rfl, rfl, hres.symm, h.position, id⟩
  | cons b bs ih =>
    obtain ⟨t, t', ht, ht', k⟩ := h.feed hr b
    rcases (feedStep_of_exec ht).outcome with ⟨v, hv⟩ | ⟨c, info, hf, -⟩
    · obtain ⟨r, r', hrun, hrun', m⟩ := ih k.alike (running_of_feed_ok hr ht hv) k.result
      refine ⟨_, _, runFeeds_cons_of_ok ht hv hrun, runFeeds_cons_of_ok ht' (k.result.trans hv) hrun', ?_⟩
      exact ⟨by rw [k.event, m.events], m.allOk, m.result, m.position, fun e => m.code (k.code e)⟩
    · exact ⟨_, _, runFeeds_cons_of_fault ht hf bs, runFeeds_cons_of_fault ht' (k.result.trans hf) bs,
        rfl, rfl, k.result.symm, k.alike.position, k.code⟩

theorem init_result_faultCode {m : Byte} {mode : Mode} (hm : modeOf m = some mode) {s u : State}
    (h : exec (.prsInit m) s = .next u) : u.result = some (.ok .none) ∧ u.faultCode = 0 := by
  rw [exec_init_of_modeOf_some hm] at h
  cases h
  exact ⟨rfl, rfl⟩

/-- Settles O44: a re-arm leaves parsers of one mode alike, and alike they stay. -/
theorem rearmForgets : Obligations.RearmForgets := by
  refine ⟨fun s s' u u' bs hr hr' hmode hcfg hu hu' => ?_, fun s s' u u' m bs hm hcfg hu hu' => ?_⟩
  · rw [exec_reset_running hr] at hu
    rw [exec_reset_running hr'] at hu'
    cases hu
    cases hu'
    have halike : Alike (deliver .none (rearm s)) (deliver .none (rearm s')) :=
      (Alike.of_rearmed (s := rearm s) (s' := rearm s') hcfg.symm hmode.symm (hr'.1.trans hr.1.symm)
        (rearm_rearmed s) (rearm_rearmed s')).deliver _
    obtain ⟨r, r', hrun, hrun', m⟩ := halike.runFeeds bs hr rfl
    exact ⟨r, r', hrun, hrun', m.events, m.allOk, m.result, m.position, m.code⟩
  · have hsel := modeOf_of_selects hm
    obtain ⟨hidle, hmode, hcfg₁⟩ := idleParser_init hsel hu
    obtain ⟨hidle', hmode', hcfg₂⟩ := idleParser_init hsel hu'
    obtain ⟨hres, hcode⟩ := init_result_faultCode hsel hu
    obtain ⟨hres', hcode'⟩ := init_result_faultCode hsel hu'
    have halike := Alike.of_rearmed (hcfg₂.trans (hcfg.symm.trans hcfg₁.symm)) (hmode'.trans hmode.symm)
      (hidle'.1.trans hidle.1.symm) hidle.rearmed hidle'.rearmed
    obtain ⟨r, r', hrun, hrun', k⟩ := halike.runFeeds bs hidle.running (hres'.trans hres.symm)
    exact ⟨r, r', hrun, hrun', k.events, k.allOk, k.result, k.position, k.code (hcode.trans hcode'.symm)⟩

end Sys2Proof.Machine
end

section
/-!
PROOFS. The HART-IP header codec (spec/43_hartip_header.md): what HIP_ENCODE and HIP_DECODE deliver on either
side of the byte count 8, and that they are inverse to each other from 8 on (R205).
-/
namespace Sys2Proof.Machine

/-! ### The 16-bit fields (R14) -/

@[simp] theorem hi8_be16 (hi lo : Byte) : hi8 (be16 hi lo) = hi := opByte_opWord hi lo

@[simp] theorem lo8_be16 (hi lo : Byte) : lo8 (be16 hi lo) = lo := immByte_opWord hi lo

theorem word16_ext {v w : Word16} (hhi : hi8 v = hi8 w) (hlo : lo8 v = lo8 w) : v = w :=
  BitVec.eq_of_toNat_eq (by rw [← hi8_mul_add_lo8 v, ← hi8_mul_add_lo8 w, hhi, hlo])

/-! ### The eight bytes of a header (R98) -/

theorem toList_of_eight (x : Vector Byte 8) : x.toList = [x[0], x[1], x[2], x[3], x[4], x[5], x[6], x[7]] := by
  have hx : x = Vector.ofFn fun i => x[i] := Vector.ext fun i hi => by simp
  rw [hx]
  rfl

/-- R205, bytes to bytes: writing the fields read from eight bytes gives the bytes, whatever they are. -/
@[simp] theorem headerBytes_headerOf (x : Vector Byte 8) : headerBytes (headerOf x) = x.toList := by
  simp only [headerBytes, headerOf, hi8_be16, lo8_be16, toList_of_eight]

/-- Different headers have different bytes. -/
theorem headerBytes_injective : Function.Injective headerBytes := by
  intro h k e
  simp only [headerBytes, List.cons.injEq, and_true] at e
  obtain ⟨hversion, htype, hid, hstatus, hseqHi, hseqLo, hcountHi, hcountLo⟩ := e
  have hseq := word16_ext hseqHi hseqLo
  have hcount := word16_ext hcountHi hcountLo
  cases h
  cases k
  rw [HipHeader.mk.injEq]
  exact ⟨hversion, htype, hid, hstatus, hseq, hcount⟩

/-- R205, header to header: the fields read from the bytes of a header are the header. -/
theorem headerOf_of_toList {x : Vector Byte 8} {h : HipHeader} (hx : x.toList = headerBytes h) :
    headerOf x = h :=
  headerBytes_injective ((headerBytes_headerOf x).trans hx)

@[simp] theorem headerOf_byteCount_toNat (x : Vector Byte 8) :
    (headerOf x).byteCount.toNat = x[6].toNat * 256 + x[7].toNat :=
  be16_toNat _ _

/-! ### Both sides of the byte count 8 (R201 to R203) -/

section
variable {h : HipHeader}

theorem headerBcOk_of_lt (hcount : h.byteCount.toNat < 8) : headerBcOk h = 0 :=
  if_neg (not_le.2 hcount)

theorem headerBcOk_of_le (hcount : 8 ≤ h.byteCount.toNat) : headerBcOk h = 1 :=
  if_pos hcount

theorem headerBodyLen_of_lt (hcount : h.byteCount.toNat < 8) : headerBodyLen h = 0 :=
  if_neg (not_le.2 hcount)

theorem headerBodyLen_of_le (hcount : 8 ≤ h.byteCount.toNat) : headerBodyLen h = h.byteCount.toNat - 8 :=
  if_pos hcount

theorem exec_hipEncode_of_lt (hcount : h.byteCount.toNat < 8) (s : State) :
    exec (.hipEncode h) s = .next (takeFault .headerByteCountTooSmall (some h.byteCount.toNat) s) :=
  if_pos hcount

end

theorem exec_hipDecode (x : Vector Byte 8) (s : State) :
    exec (.hipDecode x) s =
      .next (deliver (.headerDecoded (headerOf x) (headerBcOk (headerOf x)) (headerBodyLen (headerOf x))) s) :=
  rfl

/-- The bytes an encode delivered, where the count lets it deliver any. -/
theorem eq_headerBytes_of_exec {s t : State} {h : HipHeader} {out : List Byte}
    (hcount : 8 ≤ h.byteCount.toNat) (he : exec (.hipEncode h) s = .next t)
    (hres : t.result = some (.ok (.bytes out))) : out = headerBytes h := by
  rw [exec_hipEncode_of_le hcount] at he
  cases he
  cases hres
  rfl

/-- The header a decode delivered. -/
theorem eq_headerOf_of_exec {s t : State} {x : Vector Byte 8} {h : HipHeader} {ok : BitVec 1} {n : Nat}
    (he : exec (.hipDecode x) s = .next t) (hres : t.result = some (.ok (.headerDecoded h ok n))) :
    h = headerOf x := by
  rw [exec_hipDecode] at he
  cases he
  cases hres
  rfl

/-- Settles O50: below 8 a fault that does not latch, from 8 on the bytes, each 16-bit field as its two halves. -/
theorem hipEncodeResult : Obligations.HipEncodeResult := by
  intro s h o imm
  refine ⟨decode_opWord _ _ o, fun hcount => ?_, fun hcount => ?_⟩
  · exact ⟨_, exec_hipEncode_of_lt hcount s, takeFault_plainFault rfl _ s⟩
  · exact ⟨_, _, _, _, _, exec_hipEncode_of_le hcount s, deliver_pureOk _ s, (hi8_mul_add_lo8 _).symm,
      (hi8_mul_add_lo8 _).symm⟩

/-- Settles O51: the fields by `be16`, the count's report and the body length on each side of 8. -/
theorem hipDecodeResult : Obligations.HipDecodeResult := by
  intro s x o imm
  refine ⟨decode_opWord _ _ o, _, headerOf x, _, _, exec_hipDecode x s, deliver_pureOk _ s, rfl, rfl, rfl, rfl,
    be16_toNat _ _, headerOf_byteCount_toNat x, fun hcount => ?_, fun hcount => ?_⟩
  · exact ⟨headerBcOk_of_lt hcount, headerBodyLen_of_lt hcount⟩
  · exact ⟨headerBcOk_of_le hcount, headerBodyLen_of_le hcount⟩

/-- Settles O52: `headerOf` and `headerBytes` are inverse to each other, and the count decides the rest. -/
theorem hipRoundTrip : Obligations.HipRoundTrip := by
  refine ⟨fun s t h x hcount he hres => ?_, fun s t x h ok n he hres => ?_⟩
  · have hx : headerOf x = h := headerOf_of_toList (eq_headerBytes_of_exec hcount he hres)
    rw [exec_hipDecode, hx, headerBcOk_of_le hcount, headerBodyLen_of_le hcount]
    exact ⟨_, rfl, deliver_pureOk _ t⟩
  · obtain rfl := eq_headerOf_of_exec he hres
    rw [← headerOf_byteCount_toNat, ← headerBytes_headerOf]
    exact ⟨fun hcount => ⟨_, exec_hipEncode_of_le hcount t, deliver_pureOk _ t⟩,
      fun hcount => ⟨_, exec_hipEncode_of_lt hcount t, takeFault_plainFault rfl _ t⟩⟩

end Sys2Proof.Machine
end

section
/-!
PROOFS. A packed-ASCII group and its four characters in numbers (spec/44_packed_ascii.md R215, R216, R219,
R220), and that packing and unpacking one group are inverse to each other on the six-bit values.
-/
namespace Sys2Proof.Machine

/-! ### Bit fields put together, in numbers -/

/-- Bits put above others weigh as much more as the lower ones are wide. -/
theorem append_toNat {m n : Nat} (x : BitVec m) (y : BitVec n) :
    (x ++ y).toNat = x.toNat * 2 ^ n + y.toNat := by
  rw [BitVec.toNat_append, Nat.shiftLeft_eq, Nat.mul_comm, ← Nat.two_pow_add_eq_or_of_lt y.isLt]

/-- A field moved up and another set below it, where neither loses a bit. -/
theorem shiftLeft_or_toNat {k : Nat} {x y : Byte} (hx : x.toNat * 2 ^ k < 256) (hy : y.toNat < 2 ^ k) :
    (x <<< k ||| y).toNat = x.toNat * 2 ^ k + y.toNat := by
  have hshift : (x <<< k).toNat = x.toNat * 2 ^ k := by
    rw [BitVec.toNat_shiftLeft, Nat.shiftLeft_eq, Nat.mod_eq_of_lt hx]
  rw [toNat_or_of_dvd (Dvd.intro_left _ hshift.symm) hy, hshift]

/-! ### A character and its six-bit value (R215, R219, R224) -/

@[simp] theorem unpack6_toNat (v : BitVec 6) :
    (unpack6 v).toNat = if v.toNat < 32 then v.toNat + 64 else v.toNat := by
  revert v
  decide

@[simp] theorem pack6_toNat (c : Byte) : (pack6 c).toNat = c.toNat % 64 := by
  rw [pack6, BitVec.extractLsb'_toNat, Nat.shiftRight_zero]

@[simp] theorem pack6_unpack6 (v : BitVec 6) : pack6 (unpack6 v) = v := by
  apply BitVec.eq_of_toNat_eq
  rw [pack6_toNat, unpack6_toNat]
  split <;> omega

/-- R103: a value becomes one of the 64 characters of HART's set. -/
theorem unpack6_range (v : BitVec 6) : 0x20 ≤ (unpack6 v).toNat ∧ (unpack6 v).toNat ≤ 0x5F := by
  rw [unpack6_toNat]
  split <;> omega

/-- R224: a character of HART's set keeps its bits. -/
theorem unpack6_pack6_of_range {c : Byte} (hc : 0x20 ≤ c.toNat ∧ c.toNat ≤ 0x5F) : unpack6 (pack6 c) = c := by
  apply BitVec.eq_of_toNat_eq
  rw [unpack6_toNat, pack6_toNat]
  split <;> omega

/-! ### A group (R102, R216, R220) -/

section
variable (v w : BitVec 6)

theorem toByte_toNat : (v.setWidth 8).toNat = v.toNat := BitVec.toNat_setWidth_of_le (by decide)

theorem toByte_shiftRight_toNat (k : Nat) : (v.setWidth 8 >>> k).toNat = v.toNat / 2 ^ k := by
  rw [BitVec.toNat_ushiftRight, toByte_toNat, Nat.shiftRight_eq_div_pow]

theorem toByte_and_toNat (k : Nat) (hk : k ≤ 8) :
    (v.setWidth 8 &&& BitVec.ofNat 8 (2 ^ k - 1)).toNat = v.toNat % 2 ^ k := by
  have hmask : 2 ^ k - 1 < 2 ^ 8 := lt_of_lt_of_le (Nat.sub_lt (Nat.two_pow_pos k) one_pos)
    (Nat.pow_le_pow_right two_pos hk)
  rw [BitVec.toNat_and, toByte_toNat, BitVec.toNat_ofNat, Nat.mod_eq_of_lt hmask, Nat.and_two_pow_sub_one_eq_mod]

theorem firstByte_toNat : (v.setWidth 8 <<< 2 ||| w.setWidth 8 >>> 4).toNat = v.toNat * 4 + w.toNat / 16 := by
  have hv := toByte_toNat v
  have hw := toByte_shiftRight_toNat w 4
  rw [shiftLeft_or_toNat (by omega) (by omega), hv, hw]
  rfl

theorem secondByte_toNat :
    ((v.setWidth 8 &&& 0x0F) <<< 4 ||| w.setWidth 8 >>> 2).toNat = v.toNat % 16 * 16 + w.toNat / 4 := by
  have hv : (v.setWidth 8 &&& 0x0F : Byte).toNat = v.toNat % 16 := toByte_and_toNat v 4 (by decide)
  have hw := toByte_shiftRight_toNat w 2
  rw [shiftLeft_or_toNat (by omega) (by omega), hv, hw]
  rfl

theorem thirdByte_toNat :
    ((v.setWidth 8 &&& 0x03) <<< 6 ||| w.setWidth 8).toNat = v.toNat % 4 * 64 + w.toNat := by
  have hv : (v.setWidth 8 &&& 0x03 : Byte).toNat = v.toNat % 4 := toByte_and_toNat v 2 (by decide)
  have hw := toByte_toNat w
  rw [shiftLeft_or_toNat (by omega) (by omega), hv, hw]
  rfl

end

section
variable (b0 b1 b2 c0 c1 c2 c3 : Byte)

@[simp] theorem groupValues_fst_toNat : (groupValues b0 b1 b2).1.toNat = b0.toNat / 4 := by
  rw [groupValues, BitVec.extractLsb'_toNat, Nat.shiftRight_eq_div_pow]
  omega

@[simp] theorem groupValues_snd_toNat :
    (groupValues b0 b1 b2).2.1.toNat = b0.toNat % 4 * 16 + b1.toNat / 16 := by
  rw [groupValues, append_toNat, BitVec.extractLsb'_toNat, BitVec.extractLsb'_toNat, Nat.shiftRight_zero,
    Nat.shiftRight_eq_div_pow]
  omega

@[simp] theorem groupValues_third_toNat :
    (groupValues b0 b1 b2).2.2.1.toNat = b1.toNat % 16 * 4 + b2.toNat / 64 := by
  rw [groupValues, append_toNat, BitVec.extractLsb'_toNat, BitVec.extractLsb'_toNat, Nat.shiftRight_zero,
    Nat.shiftRight_eq_div_pow]
  omega

@[simp] theorem groupValues_fourth_toNat : (groupValues b0 b1 b2).2.2.2.toNat = b2.toNat % 64 := by
  rw [groupValues, BitVec.extractLsb'_toNat, Nat.shiftRight_zero]

/-- R216 in numbers: the 24 bits of a group cut into four values, each the character of its value. -/
theorem unpack3_toNat :
    (unpack3 b0 b1 b2).map BitVec.toNat =
      [b0.toNat / 4, b0.toNat % 4 * 16 + b1.toNat / 16, b1.toNat % 16 * 4 + b2.toNat / 64,
        b2.toNat % 64].map fun v => if v < 32 then v + 64 else v := by
  simp only [unpack3, List.map_cons, List.map_nil, unpack6_toNat, groupValues_fst_toNat, groupValues_snd_toNat,
    groupValues_third_toNat, groupValues_fourth_toNat]

/-- R220 in numbers: the 24 bits of four values cut into bytes. -/
theorem pack4_toNat :
    (pack4 c0 c1 c2 c3).map BitVec.toNat =
      [(pack6 c0).toNat * 4 + (pack6 c1).toNat / 16, (pack6 c1).toNat % 16 * 16 + (pack6 c2).toNat / 4,
        (pack6 c2).toNat % 4 * 64 + (pack6 c3).toNat] := by
  simp only [pack4, List.map_cons, List.map_nil, firstByte_toNat, secondByte_toNat, thirdByte_toNat]

/-- Three bytes whose numbers are a group's are the group. -/
theorem pack4_eq_iff_toNat : pack4 c0 c1 c2 c3 = [b0, b1, b2] ↔
    b0.toNat = (pack6 c0).toNat * 4 + (pack6 c1).toNat / 16 ∧
    b1.toNat = (pack6 c1).toNat % 16 * 16 + (pack6 c2).toNat / 4 ∧
    b2.toNat = (pack6 c2).toNat % 4 * 64 + (pack6 c3).toNat := by
  rw [← (List.map_injective_iff.2 fun _ _ => BitVec.eq_of_toNat_eq).eq_iff (a := pack4 c0 c1 c2 c3), pack4_toNat]
  simp only [List.map_cons, List.map_nil, List.cons.injEq, and_true, eq_comm]

/-- R220: a group is the packing of four characters exactly if its values are theirs. -/
theorem pack4_eq_iff : pack4 c0 c1 c2 c3 = [b0, b1, b2] ↔
    groupValues b0 b1 b2 = (pack6 c0, pack6 c1, pack6 c2, pack6 c3) := by
  rw [pack4_eq_iff_toNat, Prod.ext_iff, Prod.ext_iff, Prod.ext_iff, ← BitVec.toNat_inj, ← BitVec.toNat_inj,
    ← BitVec.toNat_inj, ← BitVec.toNat_inj, groupValues_fst_toNat, groupValues_snd_toNat,
    groupValues_third_toNat, groupValues_fourth_toNat]
  dsimp only
  omega

end

section
variable {b0 b1 b2 c0 c1 c2 c3 : Byte}

/-- R220: packing the characters of a group gives the group. -/
theorem pack4_of_unpack3 (h : unpack3 b0 b1 b2 = [c0, c1, c2, c3]) : pack4 c0 c1 c2 c3 = [b0, b1, b2] := by
  cases h
  simp only [pack4_eq_iff, pack6_unpack6]

/-- R220: unpacking a packed group gives its characters, each reduced to HART's set. -/
theorem unpack3_of_pack4 (h : pack4 c0 c1 c2 c3 = [b0, b1, b2]) :
    unpack3 b0 b1 b2 = [c0, c1, c2, c3].map fun c => unpack6 (pack6 c) := by
  rw [unpack3, (pack4_eq_iff ..).1 h]
  rfl

theorem and_topBits_toNat (b : Byte) : (b &&& 0xC0).toNat = b.toNat / 64 * 64 := by
  revert b
  decide

/-- Packing a group's characters with 0x00 for the last clears the group's last six bits. -/
theorem pack4_zero_of_unpack3 (h : unpack3 b0 b1 b2 = [c0, c1, c2, c3]) :
    pack4 c0 c1 c2 0 = [b0, b1, b2 &&& 0xC0] := by
  cases h
  rw [pack4_eq_iff_toNat, and_topBits_toNat]
  simp only [pack6_unpack6, groupValues_fst_toNat, groupValues_snd_toNat, groupValues_third_toNat, pack6_toNat]
  refine ⟨by omega, by omega, ?_⟩
  show b2.toNat / 64 * 64 = (b1.toNat % 16 * 4 + b2.toNat / 64) % 4 * 64 + 0
  omega

end

/-- Settles O53: the numbers of both layouts, and that the second takes the first back. -/
theorem packedGroupLayout : Obligations.PackedGroupLayout := by
  refine ⟨unpack3_toNat, fun c0 c1 c2 c3 => ?_, fun _ _ _ _ _ _ _ => pack4_of_unpack3⟩
  rw [pack4_toNat, pack6_toNat, pack6_toNat, pack6_toNat, pack6_toNat, Nat.mod_mod_of_dvd _ (by decide),
    Nat.mod_mod_of_dvd _ (by decide)]

end Sys2Proof.Machine
end

section
/-!
PROOFS. The packed-ASCII operations (spec/44_packed_ascii.md): what PA_UNPACK, STR_FIT and PA_PACK deliver
(R217, R218, R221, R222), and the two round trips (R223).
-/
namespace Sys2Proof.Machine

/-! ### Group by group (R217, R222) -/

/-- R218: a rest below three bytes has no character. -/
theorem unpackGroups_of_length_lt {r : List Byte} (hr : r.length < 3) : unpackGroups r = [] :=
  List.eq_nil_of_length_eq_zero (by rw [unpackGroups_length]; omega)

theorem packGroups_of_length_lt {r : List Byte} (hr : r.length < 4) : packGroups r = [] :=
  List.eq_nil_of_length_eq_zero (by rw [packGroups_length]; omega)

theorem take_drop_unpackGroups {x : List Byte} {g : Nat} (hg : g < x.length / 3) :
    ((unpackGroups x).drop (4 * g)).take 4 =
      unpack3 (x.getD (3 * g) 0) (x.getD (3 * g + 1) 0) (x.getD (3 * g + 2) 0) := by
  induction x using unpackGroups.induct generalizing g with
  | case1 b0 b1 b2 rest ih =>
    cases g with
    | zero => rfl
    | succ g =>
      simp only [List.length_cons] at hg
      exact ih (by omega)
  | case2 | case3 | case4 => simp at hg

theorem take_drop_packGroups {t : List Byte} {g : Nat} (hg : g < t.length / 4) :
    ((packGroups t).drop (3 * g)).take 3 =
      pack4 (t.getD (4 * g) 0) (t.getD (4 * g + 1) 0) (t.getD (4 * g + 2) 0) (t.getD (4 * g + 3) 0) := by
  induction t using packGroups.induct generalizing g with
  | case1 c0 c1 c2 c3 rest ih =>
    cases g with
    | zero => rfl
    | succ g =>
      simp only [List.length_cons] at hg
      exact ih (by omega)
  | case2 | case3 | case4 | case5 => simp at hg

/-- Whole groups of bytes in front are unpacked for themselves. -/
theorem unpackGroups_append {x : List Byte} (hx : x.length % 3 = 0) (r : List Byte) :
    unpackGroups (x ++ r) = unpackGroups x ++ unpackGroups r := by
  induction x using unpackGroups.induct with
  | case1 b0 b1 b2 rest ih =>
    simp only [List.length_cons] at hx
    simp only [List.cons_append, unpackGroups, List.append_assoc]
    rw [ih (by omega)]
  | case2 => rfl
  | case3 | case4 => simp at hx

/-- Whole groups of characters in front are packed for themselves. -/
theorem packGroups_append {t : List Byte} (ht : t.length % 4 = 0) (r : List Byte) :
    packGroups (t ++ r) = packGroups t ++ packGroups r := by
  induction t using packGroups.induct with
  | case1 c0 c1 c2 c3 rest ih =>
    simp only [List.length_cons] at ht
    simp only [List.cons_append, packGroups, List.append_assoc]
    rw [ih (by omega)]
  | case2 => rfl
  | case3 | case4 | case5 => simp at ht

/-- R217: every character delivered is of HART's set. -/
theorem range_of_mem_unpackGroups {x : List Byte} {c : Byte} (hc : c ∈ unpackGroups x) :
    0x20 ≤ c.toNat ∧ c.toNat ≤ 0x5F := by
  induction x using unpackGroups.induct with
  | case1 b0 b1 b2 rest ih =>
    rw [unpackGroups, List.mem_append] at hc
    rcases hc with hc | hc
    · simp only [unpack3, List.mem_cons, List.not_mem_nil, or_false] at hc
      obtain rfl | rfl | rfl | rfl := hc <;> exact unpack6_range _
    · exact ih hc
  | case2 | case3 | case4 => exact absurd hc List.not_mem_nil

/-! ### The two round trips of groups (R223) -/

theorem unpackGroups_packGroups {t : List Byte} (ht : t.length % 4 = 0) :
    unpackGroups (packGroups t) = t.map fun c => unpack6 (pack6 c) := by
  induction t using packGroups.induct with
  | case1 c0 c1 c2 c3 rest ih =>
    simp only [List.length_cons] at ht
    obtain ⟨b0, b1, b2, hb⟩ : ∃ b0 b1 b2, pack4 c0 c1 c2 c3 = [b0, b1, b2] := ⟨_, _, _, rfl⟩
    calc unpackGroups (packGroups (c0 :: c1 :: c2 :: c3 :: rest))
      _ = unpack3 b0 b1 b2 ++ unpackGroups (packGroups rest) := by rw [packGroups, hb]; rfl
      _ = _ := by rw [unpack3_of_pack4 hb, ih (by omega)]; rfl
  | case2 => rfl
  | case3 | case4 | case5 => simp at ht

theorem packGroups_unpackGroups {x : List Byte} (hx : x.length % 3 = 0) : packGroups (unpackGroups x) = x := by
  induction x using unpackGroups.induct with
  | case1 b0 b1 b2 rest ih =>
    simp only [List.length_cons] at hx
    obtain ⟨c0, c1, c2, c3, hc⟩ : ∃ c0 c1 c2 c3, unpack3 b0 b1 b2 = [c0, c1, c2, c3] := ⟨_, _, _, _, rfl⟩
    calc packGroups (unpackGroups (b0 :: b1 :: b2 :: rest))
      _ = pack4 c0 c1 c2 c3 ++ packGroups (unpackGroups rest) := by rw [unpackGroups, hc]; rfl
      _ = _ := by rw [pack4_of_unpack3 hc, ih (by omega)]; rfl
  | case2 => rfl
  | case3 | case4 => simp at hx

/-- The last group with 0x00 for its last character: the group's last six bits are cleared. -/
theorem packGroups_dropLast_unpackGroups_append {p : List Byte} (hp : p.length % 3 = 0) (b0 b1 k : Byte) :
    packGroups ((unpackGroups (p ++ [b0, b1, k])).dropLast ++ [0]) = p ++ [b0, b1, k &&& 0xC0] := by
  obtain ⟨c0, c1, c2, c3, hc⟩ : ∃ c0 c1 c2 c3, unpack3 b0 b1 k = [c0, c1, c2, c3] := ⟨_, _, _, _, rfl⟩
  have hunpack : unpackGroups (p ++ [b0, b1, k]) = (unpackGroups p ++ [c0, c1, c2]) ++ [c3] := by
    rw [unpackGroups_append hp, unpackGroups, hc, List.append_assoc]
    rfl
  have hpack : packGroups [c0, c1, c2, 0] = [b0, b1, k &&& 0xC0] := pack4_zero_of_unpack3 hc
  rw [hunpack, List.dropLast_concat, List.append_assoc, List.cons_append, List.cons_append, List.cons_append,
    List.nil_append, packGroups_append (by rw [unpackGroups_length]; omega), packGroups_unpackGroups hp, hpack]

theorem packGroups_dropLast_unpackGroups {x : List Byte} {k : Byte} (hx : (x ++ [k]).length % 3 = 0) :
    packGroups ((unpackGroups (x ++ [k])).dropLast ++ [0]) = x ++ [k &&& 0xC0] := by
  rw [List.length_append, List.length_singleton] at hx
  obtain ⟨b0, b1, hlast⟩ : ∃ b0 b1, x.drop (x.length - 2) = [b0, b1] :=
    List.length_eq_two.1 (by rw [List.length_drop]; omega)
  have hgroups : (x.take (x.length - 2)).length % 3 = 0 := by
    rw [List.length_take]
    omega
  rw [← List.take_append_drop (x.length - 2) x, hlast, List.append_assoc, List.append_assoc]
  exact packGroups_dropLast_unpackGroups_append hgroups b0 b1 k

/-! ### Fitting (R221) -/

section
variable (c : Config) (txt : List Byte) (len : Nat)

/-- R221: the cut of `cap` is the subtraction of natural numbers. -/
theorem fitString_eq :
    fitString c txt len = txt.take (min txt.length (len - fitReserve c)) ++
      List.replicate (len - min txt.length (len - fitReserve c)) 0 := by
  have hcap : (if len ≥ fitReserve c then len - fitReserve c else 0) = len - fitReserve c := by
    split <;> omega
  simp only [fitString, hcap]

variable {c txt len}

theorem fitReserve_of_true (h : c.fitReserveNul = true) : fitReserve c = 1 := if_pos h

theorem fitReserve_of_false (h : c.fitReserveNul = false) : fitReserve c = 0 := by
  rw [fitReserve, h]
  rfl

/-- A string of the field's length fills it when nothing is reserved. -/
theorem fitString_of_length_eq (h : c.fitReserveNul = false) (hlen : txt.length = len) :
    fitString c txt len = txt := by
  subst hlen
  rw [fitString_eq, fitReserve_of_false h, Nat.sub_zero, Nat.min_self, List.take_length, Nat.sub_self]
  exact List.append_nil _

/-- A string of the field's length loses its last character to a reserved terminator. -/
theorem fitString_of_length_eq_reserved (h : c.fitReserveNul = true) (hlen : txt.length = len) (hpos : 0 < len) :
    fitString c txt len = txt.dropLast ++ [0] := by
  subst hlen
  rw [fitString_eq, fitReserve_of_true h, min_eq_right (Nat.sub_le _ _), Nat.sub_sub_self hpos,
    List.dropLast_eq_take]
  rfl

/-- R221: with the terminator reserved a field that is not empty ends in it. -/
theorem getLast?_fitString (h : c.fitReserveNul = true) (hpos : 0 < len) :
    (fitString c txt len).getLast? = some 0 := by
  have hfill : len - min txt.length (len - fitReserve c) ≠ 0 := by
    rw [fitReserve_of_true h]
    omega
  obtain ⟨n, hn⟩ := Nat.exists_eq_succ_of_ne_zero hfill
  rw [fitString_eq, hn, List.replicate_succ', ← List.append_assoc, List.getLast?_concat]

end

/-! ### Packing a string (R222) -/

theorem packString_length (c : Config) (txt : List Byte) (len : Nat) : (packString c txt len).length = len := by
  rw [packString, List.length_append, packGroups_length, fitString_length, List.length_replicate]
  omega

theorem packGroups_fitString_length (c : Config) (txt : List Byte) (g : Nat) :
    (packGroups (fitString c txt (4 * g))).length = 3 * g := by
  rw [packGroups_length, fitString_length]
  omega

/-- R223: the zero tail has no character, and the groups come back with their characters reduced. -/
theorem unpackGroups_packString (c : Config) (txt : List Byte) (len : Nat) :
    unpackGroups (packString c txt len) =
      (fitString c txt (4 * (len / 3))).map fun c => unpack6 (pack6 c) := by
  rw [packString, unpackGroups_append (by rw [packGroups_fitString_length]; omega),
    unpackGroups_of_length_lt (r := List.replicate (len % 3) 0)
      (by rw [List.length_replicate]; exact Nat.mod_lt _ (by decide)),
    List.append_nil, unpackGroups_packGroups (by rw [fitString_length]; omega)]

/-- R223, R224: on characters of HART's set only the fill comes back changed. -/
theorem map_fitString_of_range {txt : List Byte} (htxt : ∀ c ∈ txt, 0x20 ≤ c.toNat ∧ c.toNat ≤ 0x5F)
    (c : Config) (len : Nat) :
    (fitString c txt len).map (fun c => unpack6 (pack6 c)) =
      txt.take (len - fitReserve c) ++ List.replicate (len - min txt.length (len - fitReserve c)) 0x40 := by
  have hkept : (txt.take (min txt.length (len - fitReserve c))).map (fun c => unpack6 (pack6 c)) =
      txt.take (min txt.length (len - fitReserve c)) :=
    (List.map_congr_left fun c hc => unpack6_pack6_of_range (htxt c (List.mem_of_mem_take hc))).trans
      (List.map_id' _)
  rw [fitString_eq, List.map_append, hkept, List.map_replicate, min_comm, ← List.take_eq_take_min]
  rfl

/-- For a field of whole groups there is no zero tail. -/
theorem packString_of_mod_eq_zero {len : Nat} (h : len % 3 = 0) (c : Config) (txt : List Byte) :
    packString c txt len = packGroups (fitString c txt (4 * (len / 3))) := by
  rw [packString, h]
  exact List.append_nil _

section
variable {c : Config}

/-- R223: with nothing reserved the characters of a field of whole groups fill it again. -/
theorem packString_unpackGroups (hr : c.fitReserveNul = false) {x : List Byte} (hx : x.length % 3 = 0) :
    packString c (unpackGroups x) x.length = x := by
  rw [packString_of_mod_eq_zero hx, fitString_of_length_eq hr (unpackGroups_length x), packGroups_unpackGroups hx]

/-- R223: a reserved terminator takes the place of the last character. -/
theorem packString_unpackGroups_reserved (hr : c.fitReserveNul = true) {x : List Byte} {k : Byte}
    (hx : (x ++ [k]).length % 3 = 0) :
    packString c (unpackGroups (x ++ [k])) (x ++ [k]).length = x ++ [k &&& 0xC0] := by
  have hpos : 0 < (x ++ [k]).length := by simp
  rw [packString_of_mod_eq_zero hx, fitString_of_length_eq_reserved hr (unpackGroups_length _) (by omega),
    packGroups_dropLast_unpackGroups hx]

end

/-! ### The operations -/

theorem exec_paPack (txt : List Byte) (len : Nat) (s : State) :
    exec (.paPack txt len) s = .next (deliver (.bytes (packString s.cfg txt len)) s) := rfl

section
variable {s t : State} {x y txt : List Byte} {len : Nat}

theorem eq_unpackGroups_of_exec (h : exec (.paUnpack x) s = .next t)
    (hres : t.result = some (.ok (.bytes y))) : y = unpackGroups x := by
  cases h
  cases hres
  rfl

theorem eq_packString_of_exec (h : exec (.paPack txt len) s = .next t)
    (hres : t.result = some (.ok (.bytes y))) : y = packString s.cfg txt len := by
  cases h
  cases hres
  rfl

/-- A pure operation keeps the parameters. -/
theorem cfg_of_exec_paUnpack (h : exec (.paUnpack x) s = .next t) : t.cfg = s.cfg := by
  cases h
  rfl

end

/-- Settles O54: the groups unpacked, and each character from a six-bit value. -/
theorem paUnpackResult : Obligations.PaUnpackResult := fun s x o _ =>
  ⟨decode_opWord _ _ o, _, unpackGroups x, rfl, deliver_pureOk _ s, unpackGroups_length x,
    fun _ => take_drop_unpackGroups, fun _ => range_of_mem_unpackGroups⟩

/-- Settles O55: the string fitted, and its last byte on either side of the parameter. -/
theorem strFitResult : Obligations.StrFitResult := fun s txt len o _ =>
  ⟨decode_opWord _ _ o, _, fitString s.cfg txt len, _, rfl, deliver_pureOk _ s, fitString_length _ _ _, rfl,
    fitString_eq _ _ _, getLast?_fitString, fitString_of_length_eq⟩

/-- Settles O56: the packed groups stand in front of the zero tail. -/
theorem paPackResult : Obligations.PaPackResult := by
  intro s txt len o imm
  have hlen := packGroups_fitString_length s.cfg txt (len / 3)
  refine ⟨decode_opWord _ _ o, _, packString s.cfg txt len, rfl, deliver_pureOk _ s, packString_length _ _ _,
    fun g hg => ?_, List.drop_left' hlen⟩
  rw [packString, List.drop_append_of_le_length (by omega),
    List.take_append_of_le_length (by rw [List.length_drop]; omega)]
  exact take_drop_packGroups (by rw [fitString_length]; omega)

/-- Settles O57: unpacking the packed groups reduces each character, and a character of the set not at all. -/
theorem packThenUnpack : Obligations.PackThenUnpack := by
  intro s t txt y len h hres
  obtain rfl := eq_packString_of_exec h hres
  refine ⟨_, _, rfl, deliver_pureOk _ t, ?_, unpackGroups_packString _ _ _, fun htxt => ?_⟩
  · rw [unpackGroups_length, packString_length]
  · rw [unpackGroups_packString, map_fitString_of_range htxt]

/-- Settles O58: the characters fill the field, or lose the last of them to the terminator. -/
theorem unpackThenPack : Obligations.UnpackThenPack := by
  intro s t x y hx h hres
  obtain rfl := eq_unpackGroups_of_exec h hres
  rw [← cfg_of_exec_paUnpack h]
  refine ⟨fun hr => ?_, fun hr x' k hk => ?_⟩
  · rw [exec_paPack, packString_unpackGroups hr hx]
    exact ⟨_, rfl, deliver_pureOk _ t⟩
  · subst hk
    rw [exec_paPack, packString_unpackGroups_reserved hr hx]
    exact ⟨_, rfl, deliver_pureOk _ t⟩

end Sys2Proof.Machine
end

section
/-!
PROOFS. The completion event and fault entry (spec/60_exceptions.md R251, R254): the one operation that delivers an
event, and that every fault outcome is the shared fault taking, whatever the operation.
-/
namespace Sys2Proof.Machine

/-! ### The event (R251) -/

/-- A feed delivers an event in state Checksum only, where it answers the re-armed parser. -/
theorem FeedStep.checksum_of_event {b : Byte} {s t : State} (f : FeedStep b s t) {g : Frame}
    (he : t.event = some g) : Running s ∧ s.pstate = .checksum ∧ t = feedChecksum b s := by
  cases f with
  | checksum hr hp => exact ⟨hr, hp, rfl⟩
  | dataLength => rcases feedDataLength_cases b s with ⟨-, -, e⟩ | ⟨-, e⟩ <;> rw [e] at he <;> cases he
  | guarded | search | count | delimiter | address | command | rcByte | payload => cases he

/-- Settles O38: only a feed can answer an event, and only by the rule of state Checksum, which re-arms. -/
theorem eventExactlyFromChecksum : Obligations.EventExactlyFromChecksum := by
  refine ⟨fun i s t g h he => ?_, fun s b hr hp => ⟨_, regFrame s b, exec_feed_checksum hr hp b, rfl⟩⟩
  cases execStep_of_exec h with
  | portsOnly hnone _ => rw [hnone] at he; cases he
  | init => cases he
  | rearm => cases he
  | @feed b _ f =>
    obtain ⟨hr, hp, rfl⟩ := f.checksum_of_event he
    exact ⟨⟨b, rfl⟩, hr, hp, rfl, idleParser_feedChecksum hr b⟩

/-! ### Fault entry (R254) -/

/-- `t` is `s` with the fault taken; a latching code comes from state DataLength. -/
structure TookFault (s t : State) (c : FaultCode) (info : Option Nat) : Prop where
  taken : t = takeFault c info s
  latching : faultLatches c = true → s.pstate = .dataLength

theorem TookFault.of_plain {c : FaultCode} (hc : faultLatches c = false) (info : Option Nat) (s : State) :
    TookFault s (takeFault c info s) c info :=
  ⟨rfl, fun h => by simp [hc] at h⟩

section
variable {s t : State} {c : FaultCode} {info : Option Nat} (hres : t.result = some (.fault c info))
include hres

/-- A feed faults by its guard, or by the short response length (R244). -/
theorem FeedStep.tookFault {b : Byte} (f : FeedStep b s t) : TookFault s t c info := by
  cases f with
  | guarded hg => cases hres; exact .of_plain (parserGuard_plain hg) _ s
  | dataLength _ hp =>
    rcases feedDataLength_cases b s with ⟨-, -, e⟩ | ⟨-, e⟩ <;> rw [e] at hres ⊢ <;> cases hres
    exact ⟨rfl, fun _ => hp⟩
  | search | count | delimiter | address | command | rcByte | payload | checksum => cases hres

/-- A fault outcome of any operation is the shared fault taking and nothing else. -/
theorem tookFault_of_exec {i : Instr} (h : exec i s = .next t) : TookFault s t c info := by
  cases hpure : isPure i with
  | true =>
    rcases exec_pure hpure s.cfg with ⟨r, hr⟩ | ⟨k, n, hk, hr⟩ <;> rw [hr s rfl] at h <;> cases h <;> cases hres
    exact .of_plain hk _ s
  | false =>
    cases i with
    | prsInit m =>
      cases hm : modeOf m with
      | none => rw [exec_init_of_modeOf_none hm] at h; cases h; cases hres; exact .of_plain rfl _ s
      | some mode => rw [exec_init_of_modeOf_some hm] at h; cases h; cases hres
    | prsReset =>
      cases hg : parserGuard s with
      | none => rw [exec_reset_running (parserGuard_none_iff.1 hg)] at h; cases h; cases hres
      | some k =>
        rw [exec_reset_guarded hg] at h; cases h; cases hres
        exact .of_plain (parserGuard_plain hg) _ s
    | prsFeed b => exact (feedStep_of_exec h).tookFault hres
    | _ => cases hpure

end

/-- Settles O39: what the shared fault taking writes, by whether its code latches. -/
theorem faultWritesOnlyLatch : Obligations.FaultWritesOnlyLatch := by
  refine ⟨fun i s t c info h hres => ?_, fun op s => takeFault_plainFault rfl (some op.toNat) s⟩
  obtain ⟨rfl, hlatching⟩ := tookFault_of_exec hres h
  refine ⟨rfl, takeFault_sameButLatch c info s, fun hc => ?_, fun hc => ?_⟩
  · have hplain : faultLatches c = false := Bool.eq_false_iff.2 fun hl => hc ((faultLatches_iff c).1 hl)
    obtain ⟨-, -, hregs⟩ := takeFault_plainFault hplain info s
    exact hregs
  · subst hc
    exact ⟨rfl, rfl, hlatching rfl⟩

end Sys2Proof.Machine
end

section
/-!
PROOFS. That every operation ends with an outcome, and that the pure ones know nothing of the parser
(spec/00_scope.md R16, spec/70_reset_and_hazards.md R271, R291).
-/
namespace Sys2Proof.Machine

/-- R271: operand and parameters fix the outcome of a pure operation, and nothing but the ports changes. -/
theorem exec_pure_outcome {i : Instr} (h : isPure i = true) (c : Config) :
    ∃ o, ∀ s : State, s.cfg = c →
      ∃ t, exec i s = .next t ∧ t.result = some o ∧ t.event = none ∧ SameRegs s t := by
  rcases exec_pure h c with ⟨r, hr⟩ | ⟨f, n, hf, hr⟩
  · exact ⟨.ok r, fun s hs => ⟨_, hr s hs, deliver_pureOk r s⟩⟩
  · exact ⟨.fault f (some n), fun s hs => ⟨_, hr s hs, takeFault_plainFault hf _ s⟩⟩

/-- Settles O40: the one outcome the operand has under the parameters the two states share. -/
theorem pureOperationsIgnoreParser : Obligations.PureOperationsIgnoreParser := by
  intro i s s' hpure hcfg
  obtain ⟨o, ho⟩ := exec_pure_outcome hpure s.cfg
  obtain ⟨t, ht, hres, hevent, hregs⟩ := ho s rfl
  obtain ⟨t', ht', hres', -, hregs'⟩ := ho s' hcfg.symm
  exact ⟨t, t', ht, ht', hres.trans hres'.symm, hevent, hregs, hregs'⟩

/-- R291: only a feed can meet an index out of range, and the invariant rules that out. -/
theorem ParserInv.exec_outcome {s : State} (h : ParserInv s) (i : Instr) :
    ∃ t o, exec i s = .next t ∧ t.result = some o := by
  cases hpure : isPure i with
  | true =>
    obtain ⟨o, ho⟩ := exec_pure_outcome hpure s.cfg
    obtain ⟨t, ht, hres, -⟩ := ho s rfl
    exact ⟨t, o, ht, hres⟩
  | false =>
    cases i with
    | prsInit m =>
      cases hm : modeOf m with
      | none => exact ⟨_, _, exec_init_of_modeOf_none hm s, rfl⟩
      | some mode => exact ⟨_, _, exec_init_of_modeOf_some hm s, rfl⟩
    | prsReset =>
      cases hg : parserGuard s with
      | none => exact ⟨_, _, exec_reset_running (parserGuard_none_iff.1 hg), rfl⟩
      | some g => exact ⟨_, _, exec_reset_guarded hg, rfl⟩
    | prsFeed b =>
      obtain ⟨t, ht⟩ := h.exec_feed_next b
      rcases (feedStep_of_exec ht).outcome with ⟨v, hv⟩ | ⟨c, info, hf, -⟩
      · exact ⟨t, _, ht, hv⟩
      · exact ⟨t, _, ht, hf⟩
    | _ => cases hpure

/-- Settles O12: by the operation, with both indices of a feed in range under the invariant. -/
theorem everyOperationEnds : Obligations.EveryOperationEnds := fun _ i h => h.exec_outcome i

end Sys2Proof.Machine
end

section
/-!
PROOFS. What the parser makes of a good and of a bad frame (spec/70_reset_and_hazards.md R280, R282): the frame of
a match validates, and the frame behind a single 0xFF is dropped.
-/
namespace Sys2Proof.Machine

/-! ### The frame of a match (R280) -/

/-- R49 (e), R140: on a match the registers hold a frame that can be encoded. -/
theorem ParserInv.encodable_regFrame {s : State} (h : ParserInv s) (hr : Running s) (hp : s.pstate = .checksum) :
    encodable (regFrame s (regCks s)) = true := by
  obtain ⟨hsum, hrc⟩ := (h.boundaryInv hr).e hp
  have hdata : (regFrame s (regCks s)).data.length = s.dataLen.toNat :=
    (congrArg List.length (if_pos rfl)).trans (bufPrefix_length _ _)
  have hcode : (regFrame s (regCks s)).rc.length = s.rcLen.val := regRc_length s
  rw [encodable_iff, hdata, hcode]
  exact ⟨hrc, by omega⟩

/-- Settles O37: the frame is the registers', well-formed and with its own checksum under the invariant. -/
theorem deliveredFrameValidates : Obligations.DeliveredFrameValidates := by
  intro s t g h hr hp hexec hevent
  rw [exec_feed_checksum hr hp] at hexec
  cases hexec
  cases hevent
  have hf := h.encodable_regFrame hr hp
  exact ⟨hf, _, exec_frmValidate_of_eq hf (h.frameCks_regFrame hp) _, deliver_pureOk _ _⟩

/-! ### A preamble too short (R282) -/

theorem IdleParser.of_sameRegs {s t : State} (h : IdleParser s) (k : SameRegs s t) : IdleParser t := by
  obtain ⟨hfault, hmode, hp, hpre, ha, hd, hrc, hlen⟩ := h
  obtain ⟨k, kfault, -⟩ := k
  refine ⟨kfault.trans hfault, k.mode ▸ hmode, ?_, k.preCnt.trans hpre, k.aIdx.trans ha, k.dIdx.trans hd,
    k.rcLen.trans hrc, k.dataLen.trans hlen⟩
  rw [k.pstate, k.mode, hp]

section
variable {s : State} (hidle : IdleParser s) (hm : s.mode = .parsePreamble)
include hidle hm

/-- R166: the byte that ends a run of one 0xFF sends the parser back to where it was. -/
theorem runsTo_singlePreamble {b : Byte} (hb : b ≠ 0xFF) :
    ∃ t, RunsTo s (prsFeeds [0xFF, b]) t [] ∧ SameRegs s t := by
  have hr := hidle.running
  have hp := hidle.pstate_parsePreamble hm
  have hcounting : Running (deliver .none { s with pstate := .preamble, preCnt := 1 }) := hr
  have hshort := exec_feed_shortPreamble hcounting rfl hb Nat.one_lt_two
  have hsame := (deliver_sameRegs .none { s with pstate := .preamble, preCnt := 1 }).write_counter .notInCommand 0
  have hback : { s with pstate := .notInCommand, preCnt := 0 } = s := by
    rw [← hp, ← hidle.rearmed.preCnt]
  rw [hback] at hsame
  exact ⟨_, RunsTo.feed (exec_feed_firstPreamble hr hp) (RunsTo.feed hshort (RunsTo.nil _)),
    hsame.trans (deliver_sameRegs _ _)⟩

/-- R165, R166: so no byte other than 0xFF behind it leaves a trace. -/
theorem runsTo_singlePreamble_noise {b : Byte} {bs : List Byte} (hbs : (0xFF : Byte) ∉ b :: bs) :
    ∃ t, RunsTo s (prsFeeds ([0xFF, b] ++ bs)) t [] ∧ SameRegs s t := by
  obtain ⟨hb, hbs⟩ := not_or.1 fun h => hbs (List.mem_cons.2 h)
  obtain ⟨u, hrun, hsame⟩ := runsTo_singlePreamble hidle hm (Ne.symm hb)
  obtain ⟨t, hrest, hregs⟩ := runsTo_noise hbs (running_of_sameRegs hidle.running hsame)
    (hsame.rest.pstate.trans (hidle.pstate_parsePreamble hm))
  exact ⟨t, prsFeeds_append _ _ ▸ hrun.append hrest, hsame.trans hregs⟩

end

/-- Settles O49: the first byte of the frame ends the run of one, the rest is noise to a searching parser. -/
theorem shortPreambleDropsFrame : Obligations.ShortPreambleDropsFrame := by
  intro s bs hidle hm hne hbs
  obtain ⟨b, bs, rfl⟩ := List.exists_cons_of_ne_nil hne
  obtain ⟨t, hrun, hregs⟩ := runsTo_singlePreamble_noise hidle hm hbs
  exact ⟨_, hrun, rfl, rfl, hidle.of_sameRegs hregs⟩

end Sys2Proof.Machine
end

section
/-!
PROOFS. What a step refuses (spec/93_implementation_defined.md U20; log entry 5): an operand outside its type, and
that alone, since no operation refuses.
-/
namespace Sys2Proof

theorem frameExpressible_eq_false_iff {c : Config} {f : Frame} :
    frameExpressible c f = false ↔ 2 ^ c.preW ≤ f.pre := by
  rw [frameExpressible, decide_eq_false_iff_not, not_lt]

/-- The preamble length of a frame operand is the one operand that can lie outside its type. -/
theorem wellFormed_eq_false_iff {c : Config} {i : Instr} :
    wellFormed c i = false ↔ ∃ f : Frame, 2 ^ c.preW ≤ f.pre ∧
      (i = .frmEncode f ∨ i = .frmCksum f ∨ ∃ rx, i = .frmValidate f rx) := by
  constructor
  · intro h
    cases i with
    | frmEncode f => exact ⟨f, frameExpressible_eq_false_iff.1 h, .inl rfl⟩
    | frmCksum f => exact ⟨f, frameExpressible_eq_false_iff.1 h, .inr (.inl rfl)⟩
    | frmValidate f rx => exact ⟨f, frameExpressible_eq_false_iff.1 h, .inr (.inr ⟨rx, rfl⟩)⟩
    | _ => cases h
  · rintro ⟨f, hpre, rfl | rfl | ⟨rx, rfl⟩⟩ <;> exact frameExpressible_eq_false_iff.2 hpre

end Sys2Proof

namespace Sys2Proof.Machine

theorem feedAddress_ne_refused (b : Byte) (s : State) (r : Refusal) : feedAddress b s ≠ .refused r := by
  rcases Nat.lt_or_ge s.aIdx.toNat 5 with hi | hi
  · obtain ⟨q, -, e⟩ := feedAddress_next b hi
    rw [e]; exact nofun
  · rw [feedAddress_stop b hi]; exact nofun

theorem feedData_ne_refused (b : Byte) (s : State) (r : Refusal) : feedData b s ≠ .refused r := by
  rcases feedData_cases b s with ⟨-, -, e⟩ | ⟨-, -, e⟩ | ⟨-, -, e⟩ <;> rw [e] <;> exact nofun

/-- A fed byte is taken, faulted or stopped at an index out of range, in every parser state. -/
theorem exec_feed_ne_refused (b : Byte) (s : State) (r : Refusal) : exec (.prsFeed b) s ≠ .refused r := by
  cases hg : parserGuard s with
  | some g => rw [exec_feed_guarded hg]; exact nofun
  | none =>
    simp only [exec, execPrsFeed_running (parserGuard_none_iff.1 hg)]
    cases s.pstate with
    | address => exact feedAddress_ne_refused b s r
    | data => exact feedData_ne_refused b s r
    | _ => exact nofun

/-- Every instruction has a meaning, in every state. -/
theorem exec_ne_refused (i : Instr) (s : State) (r : Refusal) : exec i s ≠ .refused r := by
  cases hpure : isPure i with
  | true => rcases exec_pure hpure s.cfg with ⟨q, hq⟩ | ⟨c, n, -, hq⟩ <;> rw [hq s rfl] <;> exact nofun
  | false =>
    cases i with
    | prsInit m =>
      cases hm : modeOf m with
      | none => rw [exec_init_of_modeOf_none hm]; exact nofun
      | some mode => rw [exec_init_of_modeOf_some hm]; exact nofun
    | prsReset =>
      cases hg : parserGuard s with
      | none => rw [exec_reset_running (parserGuard_none_iff.1 hg)]; exact nofun
      | some g => rw [exec_reset_guarded hg]; exact nofun
    | prsFeed b => exact exec_feed_ne_refused b s r
    | _ => cases hpure

/-- So a step refuses a decoded request by the check of U20 or not at all. -/
theorem step_refused_iff {s : State} {p : PortInput} {rest : List PortInput} {i : Instr} {r : Refusal}
    (hport : s.inputs = p :: rest) (hdec : decode p = .instr i) :
    step s = .refused r ↔ r = .operandNotExpressible ∧ wellFormed s.cfg i = false := by
  rw [step_of_decode_instr hport hdec]
  cases wellFormed s.cfg i with
  | true => exact iff_of_false (exec_ne_refused i _ r) nofun
  | false => exact ⟨fun h => by cases h; exact ⟨rfl, rfl⟩, fun ⟨hr, _⟩ => hr ▸ rfl⟩

/-- Settles O6: the step refuses exactly the ill-formed, and those are the frames of too long a preamble. -/
theorem inexpressibleOperandRefused : Obligations.InexpressibleOperandRefused := by
  intro s p rest i r hport hdec
  rw [step_refused_iff hport hdec, wellFormed_eq_false_iff]

end Sys2Proof.Machine
end
